-- ==== Sys2Proof/Word.lean ====
section
/-! DEFINITION. The words of OTPCORE: a byte of a buffer, and the 32-bit word of the register bus (R13, R73). -/

namespace Sys2Proof

/-- One byte of KEY, MSG or DIGEST (R9). -/
abbrev Byte := BitVec 8

/-- One 32-bit word: a bus word, a command word, a SHA-1 word. -/
abbrev Word := BitVec 32

/-- The 20-byte digest (R44): "length == 20 always". -/
abbrev Digest := Vector Byte 20

end Sys2Proof
end

