-- ==== Sys2Proof/Syntax.lean ====
section
/-! DEFINITION. The eight commands of OTPCORE (R103), one constructor for each row of spec/opcode_table.json. -/

namespace Sys2Proof

/-- A command. `d` is the digit count of the D field (R101), a count and not a bit field once decoded. The command
word names no registers (R104). -/
inductive Instr where
  /-- NOP (R210): do nothing and report completion. -/
  | nop
  /-- ENC_CTR (R131): encode the counter into the message buffer. -/
  | encCtr
  /-- HMAC (R154): the keyed digest of the message buffer. -/
  | hmac
  /-- TRUNC (R181): dynamic truncation of the digest register. -/
  | trunc
  /-- MODRED (R192): reduce TRUNC modulo 10^d. -/
  | modred (d : Nat)
  /-- TSTEP (R202): the time step into the counter. -/
  | tstep
  /-- HOTP (R211): the HOTP code of CTR with d digits. -/
  | hotp (d : Nat)
  /-- TOTP (R214): the TOTP code of EPOCH and INTERVAL with d digits. -/
  | totp (d : Nat)
  deriving DecidableEq, Repr

/-- The opcode, field OP of the command word (R103). -/
def Instr.opcode : Instr → BitVec 8
  | .nop => 0x00
  | .encCtr => 0x01
  | .hmac => 0x02
  | .trunc => 0x03
  | .modred _ => 0x04
  | .tstep => 0x05
  | .hotp _ => 0x06
  | .totp _ => 0x07

/-- The digit count carried in field D; 0 for a command that has none (R100, R101). -/
def Instr.digits : Instr → Nat
  | .nop => 0
  | .encCtr => 0
  | .hmac => 0
  | .trunc => 0
  | .modred d => d
  | .tstep => 0
  | .hotp d => d
  | .totp d => d

end Sys2Proof
end

