-- ==== Sys2Proof/WellFormed.lean ====
section
/-! DEFINITION. Which commands a command word can hold. -/

namespace Sys2Proof

/-- The digit count fits the 4-bit D field: "Counts above 15 cannot be expressed in the command word" (R101), and the
assembler refuses them (R109). A digit count outside 6 to 8 is no ill-formed HOTP: it is a legal encoding that fails
validation when it is accepted (R101). -/
abbrev WellFormed (i : Instr) : Prop := i.digits < 16

end Sys2Proof
end

