-- ==== Sys2Proof/Decode.lean ====
section
/-! DEFINITION. The decoder of command words (R100 to R106), total on any 32-bit word, and the encoder. -/

namespace Sys2Proof

/-- Why a word is illegal (R106). Every one of these is error ILLEGAL to the host (R231). -/
inductive Illegal where
  /-- RSV, bits 31:12, is not 0 (R102). -/
  | reservedBits
  /-- D, bits 11:8, is not 0 and the opcode takes no digit count (R100, R106). -/
  | digitsNotTaken
  /-- OP, bits 7:0, is 0x08 or above (R106). -/
  | unknownOpcode
  deriving DecidableEq, Repr

/-- What a word decodes to: "either a command or ILLEGAL" (R105). -/
inductive Decoded where
  | command (i : Instr)
  | illegal (why : Illegal)
  deriving DecidableEq, Repr

/-- Field OP, bits 7:0 (R100). -/
def opField (w : Word) : BitVec 8 := w.extractLsb' 0 8

/-- Field D, bits 11:8 (R100). -/
def digitField (w : Word) : BitVec 4 := w.extractLsb' 8 4

/-- Field RSV, bits 31:12 (R100). -/
def rsvField (w : Word) : BitVec 20 := w.extractLsb' 12 20

/-- A command that takes no digit count: D must be 0 (R100). -/
def noDigits (i : Instr) (d : BitVec 4) : Decoded :=
  if d = 0 then .command i else .illegal .digitsNotTaken

/-- The opcode map (R103) for a word whose reserved field is 0. -/
def decodeOp (op : BitVec 8) (d : BitVec 4) : Decoded :=
  if op = 0x00 then noDigits .nop d
  else if op = 0x01 then noDigits .encCtr d
  else if op = 0x02 then noDigits .hmac d
  else if op = 0x03 then noDigits .trunc d
  else if op = 0x04 then .command (.modred d.toNat)
  else if op = 0x05 then noDigits .tstep d
  else if op = 0x06 then .command (.hotp d.toNat)
  else if op = 0x07 then .command (.totp d.toNat)
  else .illegal .unknownOpcode

/-- `decode` of R105. A word with RSV ≠ 0 "is not decoded further" (R102). -/
def decode (w : Word) : Decoded :=
  if rsvField w = 0 then decodeOp (opField w) (digitField w) else .illegal .reservedBits

/-- The command word of a command: RSV = 0, D, OP (R100, R103): "word = (d << 8) | OP" (R109). -/
def encode (i : Instr) : Word := 
  ((BitVec.ofNat 4 i.digits).setWidth 32 <<< 8) ||| i.opcode.setWidth 32

/-- The command that the decoder reads from a word given as the opcode table numbers its bits; the bits above `nbits`
are 0. A command word is exactly 32 bits (R100), so a number that needs more is no command word. -/
def decodeTableWord (nbits w : Nat) : Option Instr :=
  if w % 2 ^ nbits < 2 ^ 32 then
    match decode (BitVec.ofNat 32 (w % 2 ^ nbits)) with
    | .command i => some i
    | .illegal _ => none
  else none

end Sys2Proof
end

