-- ==== Sys2Proof/Machine/Bytes.lean ====
section
/-! DEFINITION. Big-endian conversions (R11) and the halves of a 64-bit register (R77). -/

namespace Sys2Proof.Machine

/-- `be_bytes_n` (R11): byte i of n is bits 8n-8i-1 to 8n-8i-8, the most significant byte first. -/
def beBytes (n v : Nat) : List Byte :=
  (List.range n).map fun i => BitVec.ofNat 8 (v >>> (8 * (n - 1 - i)))

/-- `be_value` (R11): the number whose bytes, most significant first, these are. -/
def beValue (bs : List Byte) : Nat := bs.foldl (fun acc b => acc * 256 + b.toNat) 0

/-- The 32-bit word whose four bytes these are (R76, R142). -/
def wordOfBytes (bs : List Byte) : Word := BitVec.ofNat 32 (beValue bs)

/-- `be_bytes_4` of a word (R76, R147). -/
def wordBytes (w : Word) : List Byte := beBytes 4 w.toNat

/-- Word k of a byte sequence: bytes 4k to 4k+3 (R76, R142). -/
def wordAt (bs : List Byte) (k : Nat) : Word := wordOfBytes ((bs.drop (4 * k)).take 4)

/-- The HI half of a 64-bit register, bits 63:32 (R77). -/
def hiHalf (v : BitVec 64) : Word := v.extractLsb' 32 32

/-- The LO half of a 64-bit register, bits 31:0 (R77). -/
def loHalf (v : BitVec 64) : Word := v.extractLsb' 0 32

/-- The 64-bit value of two halves (R77). -/
def joinHalves (hi lo : Word) : BitVec 64 := (hi.setWidth 64 <<< 32) ||| lo.setWidth 64

/-- A write to the HI half "leaves the other half unchanged" (R77). -/
def setHiHalf (v : BitVec 64) (w : Word) : BitVec 64 := joinHalves w (loHalf v)

/-- A write to the LO half "leaves the other half unchanged" (R77). -/
def setLoHalf (v : BitVec 64) (w : Word) : BitVec 64 := joinHalves (hiHalf v) w

end Sys2Proof.Machine
end

