-- ==== Sys2Proof/Config.lean ====
section
/-! DEFINITION. What is fixed for one OTPCORE instance (R7, R71), and the free values: what the spec leaves open, as
constants without a body, so that no proof can lean on a value of theirs. -/

namespace Sys2Proof

/-- The parameters of one instance. They never change while the machine runs. -/
structure Config where
  /-- `KEY_MAX`, the bytes of the key buffer (R7, R32, R45). -/
  keyMax : Nat
  /-- `MSG_MAX`, the bytes of the message buffer (R7, R32, R46). -/
  msgMax : Nat
  /-- `BASE`, the address of the 4 KiB window on the host's bus (R71). -/
  base : Nat
  deriving DecidableEq, Repr

/-- The legal parameter values: multiples of 4 in the ranges of R7, and a base aligned to 4 KiB (R71). -/
abbrev Config.Legal (c : Config) : Prop :=
  (c.keyMax % 4 = 0 ∧ 64 ≤ c.keyMax ∧ c.keyMax ≤ 256) ∧
  (c.msgMax % 4 = 0 ∧ 8 ≤ c.msgMax ∧ c.msgMax ≤ 64) ∧
  c.base % 4096 = 0

/-- The spec's default parameters (R7), at base 0. DESIGN CHOICE for the base: the platform assigns it (log 8). -/
def Config.default : Config := { keyMax := 256, msgMax := 64, base := 0 }

/-- FREE VALUE (log 1). The k-th byte drawn for a KEY or MSG byte that nothing has written since reset: "any byte,
under no law" (R54). `State.draws` counts the draws, so that each read of such a byte is a fresh one. -/
opaque Config.freeByte : Nat → Byte

/-- FREE VALUE (log 2). The quotient of an epoch by a zero interval, which R200 leaves undefined. No acceptance lets
it be reached (R202, R214). -/
opaque Config.zeroIntervalQuotient : BitVec 64 → BitVec 64

end Sys2Proof
end

