-- ==== Sys2Proof/Machine/State.lean ====
section
/-! DEFINITION. The state of OTPCORE (R30, R55) as plain data, the world at its port, the reasons a step can stop, and
the state right after reset (R53). -/

namespace Sys2Proof.Machine

/-- A byte buffer (KEY or MSG): the bytes written so far, by byte index, indexes strictly rising. An index that is not
listed has never been written since reset (R54, R55: `none = never written`). -/
abbrev Memory := List Host.Cell

/-- The canonical form of a buffer. There is no value that an unlisted index reads as (R54), so nothing written is
ever left out. -/
abbrev Memory.wf (m : Memory) : Prop := m.Pairwise fun x y => x.1 < y.1

/-- The width of a host access in bits. OTPCORE answers 32-bit accesses only (R73). -/
inductive Width where
  | w8 | w16 | w32 | w64
  deriving DecidableEq, Repr

/-- One event at the port, in port order (R81, R233). -/
inductive PortEvent where
  /-- The host makes no access and the completion gets its turn (R264). -/
  | tick
  /-- A host read at a bus address. -/
  | read (addr : Nat) (width : Width)
  /-- A host write at a bus address. The value of a write that is not 32 bits wide never matters (R73). -/
  | write (addr : Nat) (width : Width) (value : Word)
  /-- The reset input takes a level: true is asserted (R260). -/
  | rst (level : Bool)
  deriving DecidableEq, Repr

/-- The whole state of the machine (R30), and after it the model's own fields for the world at the port. -/
structure State where
  /-- The parameters of the instance: what PARAM reads (R32), and BASE (R71). No step changes them. -/
  config : Config
  /-- CTRL.IE (R33). -/
  ie : Bool
  /-- PENDING (R47): empty, or the one accepted command. STATUS.BUSY is 1 exactly when it is not empty. -/
  pending : Option Instr
  /-- STATUS.DONE (R34). -/
  done : Bool
  /-- STATUS.ERR (R34). -/
  err : Bool
  /-- STATUS.OVR (R34). -/
  ovr : Bool
  /-- STATUS.ERRCODE (R34, R231). -/
  errcode : BitVec 4
  /-- CMD_LAST (R35). -/
  cmdLast : Word
  /-- KEYLEN.LEN (R36). -/
  keylen : BitVec 16
  /-- MSGLEN.LEN (R37). -/
  msglen : BitVec 16
  /-- CTR (R38). -/
  ctr : BitVec 64
  /-- EPOCH (R39). -/
  epoch : BitVec 64
  /-- INTERVAL (R40). -/
  interval : BitVec 64
  /-- TRUNC (R41). -/
  trunc : Word
  /-- OFFSET.OFF (R42). -/
  offset : BitVec 4
  /-- CODE (R43). -/
  code : Word
  /-- DIGEST (R44). -/
  digest : Digest
  /-- KEY (R45). -/
  key : Memory
  /-- MSG (R46). -/
  msg : Memory
  /-- MODEL's own: the level of the reset input `rst` (R260), true while asserted (log 5). -/
  rst : Bool
  /-- MODEL's own: the port events still to come (log 3). -/
  script : List PortEvent
  /-- MODEL's own: the data answered to the last host read (log 4). -/
  rdata : Option Word
  /-- MODEL's own: how many free bytes have been drawn (log 1). -/
  draws : Nat
  deriving DecidableEq, Repr

/-- Why the machine stops with a fault. Each is an access that the spec has a model record as a faulted host program
(R73, R271). All are safe: the machine stops, and no state changes. -/
inductive Fault where
  /-- Raised by a host access that is not 32 bits wide: a bus error (R73). Safe. -/
  | badWidth
  /-- Raised by a host access at an offset that is not a multiple of 4: a bus error (R73). Safe. -/
  | misaligned
  /-- Raised by a host access outside the 4 KiB window, which does not address OTPCORE (R70, 95_test_vectors.md
  §8.7). Safe. -/
  | outsideWindow
  deriving DecidableEq, Repr

/-- Why the machine gives no step. -/
inductive Refusal where
  /-- Raised by `exec` for a command with no meaning yet; no arm does. Safe. -/
  | notModelled (mnemonic : String)
  /-- Raised by a host access while `rst` is asserted: "A model gives the host no step during reset" (R260). Unsafe
  for a host that does it, as R260 itself says; the host must not (R262). -/
  | accessDuringReset
  deriving DecidableEq, Repr

/-- The state right after reset (R53, R261), of an instance with the default parameters (R7). The port fields are the
model's own and hold nothing yet (logs 1, 3, 4, 5). -/
def State.reset : State where
  config := Config.default
  ie := false
  pending := none
  done := false
  err := false
  ovr := false
  errcode := 0
  cmdLast := 0
  keylen := 0
  msglen := 0
  ctr := 0
  epoch := 0
  interval := 30
  trunc := 0
  offset := 0
  code := 0
  digest := Vector.replicate 20 0
  key := []
  msg := []
  rst := false
  script := []
  rdata := none
  draws := 0

end Sys2Proof.Machine
end

