-- ==== Sys2Proof/Machine/Flags.lean ====
section
/-! DEFINITION. The flags of OTPCORE: STATUS as the host reads and writes it (R34), the error codes (R231) and the
interrupt output (R48). OTPCORE has no condition codes (R51). -/

namespace Sys2Proof.Machine

/-- The named errors (R231). -/
inductive ErrorCode where
  | illegal | digits | interval | keylen | msglen
  /-- "reserved for §7 InternalContractViolation", never raised (R156, R231). -/
  | internal
  deriving DecidableEq, Repr

/-- The number ERRCODE holds (R231). -/
def ErrorCode.code : ErrorCode → BitVec 4
  | .illegal => 1
  | .digits => 2
  | .interval => 3
  | .keylen => 4
  | .msglen => 5
  | .internal => 6

/-- STATUS.BUSY: "1 while a command is in flight (PENDING is not empty)" (R34, R47). -/
def State.busy (s : State) : Bool := s.pending.isSome

/-- The STATUS word (R34): BUSY 0, DONE 1, ERR 2, OVR 3, ERRCODE 11:8, the rest 0. -/
def State.statusWord (s : State) : Word :=
  (s.errcode.setWidth 32 <<< 8) ||| ((BitVec.ofBool s.ovr).setWidth 32 <<< 3)
    ||| ((BitVec.ofBool s.err).setWidth 32 <<< 2) ||| ((BitVec.ofBool s.done).setWidth 32 <<< 1)
    ||| (BitVec.ofBool s.busy).setWidth 32

/-- `irq` (R48): a level output, CTRL.IE and (DONE or ERR). -/
def State.irq (s : State) : Bool := s.ie && (s.done || s.err)

/-- Write 1 to DONE (R34, R75). -/
def State.clearDone (s : State) : State := { s with done := false }

/-- Write 1 to ERR, which "also clears ERRCODE" (R34, R75): how the host returns from an error (R238). -/
def State.clearErr (s : State) : State := { s with err := false, errcode := 0 }

/-- Write 1 to OVR (R34, R75). -/
def State.clearOvr (s : State) : State := { s with ovr := false }

/-- A host write of STATUS: bits 1, 2 and 3 clear DONE, ERR and OVR where they are 1; nothing else can be written
(R34, R75). -/
def writeStatus (w : Word) (s : State) : State :=
  let s := if w.getLsbD 1 then s.clearDone else s
  let s := if w.getLsbD 2 then s.clearErr else s
  if w.getLsbD 3 then s.clearOvr else s

end Sys2Proof.Machine
end

