-- ==== Sys2Proof/Machine/Ops.lean ====
section
/-! DEFINITION. The shared operations: the byte buffers, the named updates of registers, reporting an error (R230, the
hardware's one form of exception: R237), and the two steps of a command's life, acceptance (R263) and completion
(R264). -/

namespace Sys2Proof.Machine

/-! ### The byte buffers -/

/-- The byte at an index; none where nothing has been written since reset (R54, R55). -/
def Memory.get? : Memory → Nat → Option Byte
  | [], _ => none
  | (k, b) :: rest, a => if k = a then some b else Memory.get? rest a

/-- Write one byte, keeping the indexes strictly rising. -/
def Memory.set : Memory → Nat → Byte → Memory
  | [], a, b => [(a, b)]
  | (k, c) :: rest, a, b =>
    if a < k then (a, b) :: (k, c) :: rest
    else if a = k then (a, b) :: rest
    else (k, c) :: Memory.set rest a b

/-- Write bytes at consecutive indexes, the first at `a` (R9, R76). -/
def Memory.setBytes (m : Memory) (a : Nat) : List Byte → Memory
  | [] => m
  | b :: bs => (m.set a b).setBytes (a + 1) bs

/-- Read `n` bytes from index `a` on, with `k` free bytes drawn so far: the bytes, and the free bytes drawn after. A
byte never written is a fresh draw at each read (R54). -/
def Memory.readBytes (m : Memory) : Nat → Nat → Nat → List Byte × Nat
  | _, 0, k => ([], k)
  | a, n + 1, k =>
    match m.get? a with
    | some b => (b :: (m.readBytes (a + 1) n k).1, (m.readBytes (a + 1) n k).2)
    | none => (Config.freeByte k :: (m.readBytes (a + 1) n (k + 1)).1, (m.readBytes (a + 1) n (k + 1)).2)

/-! ### The named updates -/

/-- The encoder's writes: MSG[0..7] and MSGLEN (R131). -/
def State.storeEncoded (s : State) (m : List Byte) : State := { s with msg := s.msg.setBytes 0 m, msglen := 8 }

/-- The HMAC engine's write, DIGEST (R154), with the free bytes drawn while the buffers were read. -/
def State.storeDigest (s : State) (dg : Digest) (draws : Nat) : State := { s with digest := dg, draws := draws }

/-- The truncator's writes, OFFSET.OFF and TRUNC (R181). -/
def State.storeWindow (s : State) (o : BitVec 4) (v : Word) : State := { s with offset := o, trunc := v }

/-- The reducer's write, CODE (R192). -/
def State.storeCode (s : State) (v : Word) : State := { s with code := v }

/-- The time-step counter's write, CTR (R202). -/
def State.storeCtr (s : State) (c : BitVec 64) : State := { s with ctr := c }

/-- A write dropped because BUSY = 1 (R234, R266). -/
def State.setOvr (s : State) : State := { s with ovr := true }

/-! ### The life of a command -/

/-- A command word is presented while the block is idle: CMD_LAST takes it, and DONE, ERR and ERRCODE are cleared;
OVR is not (R234, R263). -/
def State.present (s : State) (w : Word) : State := { s with cmdLast := w, done := false, err := false, errcode := 0 }

/-- `raise Error(k)` (R14, R230): STATUS.ERR and STATUS.ERRCODE, and nothing else. There is no trap entry (R237). -/
def State.raiseError (s : State) (k : ErrorCode) : State := { s with err := true, errcode := k.code }

/-- PENDING takes the accepted command (R263). -/
def State.setPending (s : State) (i : Instr) : State := { s with pending := some i }

/-- The end of every completion: PENDING is emptied and DONE set (R264). -/
def State.finish (s : State) : State := { s with pending := none, done := true }

/-- The first of the checks that fails, in the order they stand (R232). -/
def firstError : List (Option ErrorCode) → Option ErrorCode
  | [] => none
  | some k :: _ => some k
  | none :: rest => firstError rest

/-- Acceptance of a decoded command (R263): present its word, then report the first failing check or make the command
pending. -/
def accept (i : Instr) (checks : List (Option ErrorCode)) (s : State) : State :=
  match firstError checks with
  | some k => (s.present (encode i)).raiseError k
  | none => (s.present (encode i)).setPending i

/-- Acceptance of an illegal word (R106, R263): error ILLEGAL. -/
def rejectWord (w : Word) (s : State) : State := (s.present w).raiseError .illegal

/-- One step of a command's life (log 6). With PENDING empty it is the acceptance (R263); with the command itself
pending it is the completion, its effect and then PENDING emptied and DONE set, all in one step (R264); with another
command pending it is a command presented while BUSY = 1, which is dropped and sets OVR (R234, R266). -/
def commandStep (i : Instr) (checks : List (Option ErrorCode)) (effect : State → State) (s : State) :
    Host.Outcome State Fault Refusal :=
  match s.pending with
  | none => .next (accept i checks s)
  | some j => if j = i then .next (effect s).finish else .next s.setOvr

end Sys2Proof.Machine
end

