-- ==== Sys2Proof/Machine/Operands.lean ====
section
/-! DEFINITION. The operands of the commands (R104): the byte ranges of KEY and MSG the engine reads (R79), and the
checks made on operands at acceptance (R231, R232). -/

namespace Sys2Proof.Machine

/-- KEY[0..KEYLEN-1] (R36, R154), and the free bytes drawn after the read. Empty when LEN = 0. -/
def State.readKey (s : State) : List Byte × Nat := s.key.readBytes 0 s.keylen.toNat s.draws

/-- MSG[0..MSGLEN-1] (R37, R154), read with `k` free bytes drawn so far. Empty when LEN = 0. -/
def State.readMsg (s : State) (k : Nat) : List Byte × Nat := s.msg.readBytes 0 s.msglen.toNat k

/-- Error DIGITS: the digit count is none of 6, 7, 8 (R211, R214, R231). -/
def digitsCheck (d : Nat) : Option ErrorCode := if 6 ≤ d ∧ d ≤ 8 then none else some .digits

/-- Error INTERVAL: INTERVAL = 0 (R202, R214, R231). -/
def intervalCheck (s : State) : Option ErrorCode := if s.interval = 0 then some .interval else none

/-- Error KEYLEN: KEYLEN.LEN > KEY_MAX (R154, R211, R214, R231). -/
def keylenCheck (s : State) : Option ErrorCode := if s.config.keyMax < s.keylen.toNat then some .keylen else none

/-- Error MSGLEN: MSGLEN.LEN > MSG_MAX (R154, R231). -/
def msglenCheck (s : State) : Option ErrorCode := if s.config.msgMax < s.msglen.toNat then some .msglen else none

end Sys2Proof.Machine
end

