-- ==== Sys2Proof/Machine/CounterEncoder.lean ====
section
/-! DEFINITION. The counter encoder (R130) and the command ENC_CTR (R131). -/

namespace Sys2Proof.Machine

/-- `encode_counter` (R130): the 8 bytes of the counter, most significant first. -/
def encodeCounter (c : BitVec 64) : List Byte := beBytes 8 c.toNat

/-- The completion of ENC_CTR (R131). CTR is not changed. -/
def encCtrEffect (s : State) : State := s.storeEncoded (encodeCounter s.ctr)

/-- ENC_CTR (R131): "a decoded ENC_CTR never raises an error". -/
def execEncCtr (s : State) : Host.Outcome State Fault Refusal := commandStep .encCtr [] encCtrEffect s

end Sys2Proof.Machine
end

