-- ==== Sys2Proof/Machine/Sha1.lean ====
section
/-! DEFINITION. SHA-1 (R140 to R149). The spec takes these rules from FIPS 180-4 and RFC 3174 (its own mark: general
knowledge, not in source). Additions are modulo 2^32. -/

namespace Sys2Proof.Machine

/-- The chaining value H0 to H4, and the working words a to e (R143, R146). -/
structure HashWords where
  a : Word
  b : Word
  c : Word
  d : Word
  e : Word
  deriving DecidableEq, Repr

/-- The initial hash value (R143). -/
def sha1Init : HashWords :=
  { a := 0x67452301, b := 0xEFCDAB89, c := 0x98BADCFE, d := 0x10325476, e := 0xC3D2E1F0 }

/-- k of R141 for a message of n bytes: the least k with (n + 1 + k) mod 64 = 56. -/
def sha1ZeroCount (n : Nat) : Nat := (119 - n % 64) % 64

/-- The padded message (R141): the message, 0x80, k zeros, and the length in bits as 8 bytes. -/
def sha1Pad (m : List Byte) : List Byte :=
  m ++ [0x80] ++ List.replicate (sha1ZeroCount m.length) 0 ++ beBytes 8 (8 * m.length)

/-- How many blocks an n-byte message is padded to (R141). -/
def sha1BlockCount (n : Nat) : Nat := (n + 8) / 64 + 1

/-- The sixteen words of a block (R142). -/
def sha1BlockWords (block : List Byte) : List Word := (List.range 16).map (wordAt block)

/-- The next word of the schedule (R144) from the words so far, the latest first: W_{t-3}, W_{t-8}, W_{t-14} and
W_{t-16} stand at 2, 7, 13 and 15. -/
def sha1NextWord (ws : List Word) : Word :=
  (ws.getD 2 0 ^^^ ws.getD 7 0 ^^^ ws.getD 13 0 ^^^ ws.getD 15 0).rotateLeft 1

/-- n more words of the schedule, the latest first. -/
def sha1Extend : Nat → List Word → List Word
  | 0, ws => ws
  | n + 1, ws => sha1Extend n (sha1NextWord ws :: ws)

/-- The schedule W_0 to W_79 of a block (R144). -/
def sha1Schedule (block : List Byte) : List Word := (sha1Extend 64 (sha1BlockWords block).reverse).reverse

/-- f_t (R145): Ch, Parity, Maj, Parity. -/
def sha1F (t : Nat) (b c d : Word) : Word :=
  if t < 20 then (b &&& c) ^^^ (~~~b &&& d)
  else if t < 40 then b ^^^ c ^^^ d
  else if t < 60 then (b &&& c) ^^^ (b &&& d) ^^^ (c &&& d)
  else b ^^^ c ^^^ d

/-- K_t (R145). -/
def sha1K (t : Nat) : Word :=
  if t < 20 then 0x5A827999
  else if t < 40 then 0x6ED9EBA1
  else if t < 60 then 0x8F1BBCDC
  else 0xCA62C1D6

/-- Round t with schedule word w (R146). -/
def sha1Round (t : Nat) (w : Word) (h : HashWords) : HashWords :=
  { a := h.a.rotateLeft 5 + sha1F t h.b h.c h.d + h.e + sha1K t + w
    b := h.a
    c := h.b.rotateLeft 30
    d := h.c
    e := h.d }

/-- The rounds from t on, one for each schedule word (R146). -/
def sha1Rounds : Nat → List Word → HashWords → HashWords
  | _, [], h => h
  | t, w :: ws, h => sha1Rounds (t + 1) ws (sha1Round t w h)

/-- Compression of one block (R146): the rounds, added to the hash value. -/
def sha1Compress (h : HashWords) (block : List Byte) : HashWords :=
  let r := sha1Rounds 0 (sha1Schedule block) h
  { a := h.a + r.a, b := h.b + r.b, c := h.c + r.c, d := h.d + r.d, e := h.e + r.e }

/-- Block i of a padded message, counted from 0 (R142). -/
def sha1Block (p : List Byte) (i : Nat) : List Byte := (p.drop (64 * i)).take 64

/-- The compressions of the first n blocks of a padded message, in order (R147). -/
def sha1Blocks (n : Nat) (p : List Byte) (h : HashWords) : HashWords :=
  (List.range n).foldl (fun x i => sha1Compress x (sha1Block p i)) h

/-- The 20 bytes of a hash value: H0 to H4, each big-endian (R147, R149). -/
def HashWords.toDigest (h : HashWords) : Digest :=
  Vector.mk (wordBytes h.a ++ wordBytes h.b ++ wordBytes h.c ++ wordBytes h.d ++ wordBytes h.e).toArray
    (by simp [wordBytes, beBytes])

/-- `sha1` (R147). Irreducible, so that no proof step runs it by accident; its equation is `sha1.eq_1`, and the kernel
evaluates it all the same. -/
@[irreducible] def sha1 (m : List Byte) : Digest := (sha1Blocks (sha1BlockCount m.length) (sha1Pad m) sha1Init).toDigest

end Sys2Proof.Machine
end

