-- ==== Sys2Proof/Machine/Hmac.lean ====
section
/-! DEFINITION. HMAC with SHA-1 (R150 to R153) and the command HMAC (R154). -/

namespace Sys2Proof.Machine

/-- The block size B of HMAC with SHA-1, in bytes (R150). -/
def hmacBlockBytes : Nat := 64

/-- K' of R151: a key longer than a block is hashed first; the empty key has no special case. -/
def hmacShortKey (key : List Byte) : List Byte :=
  if hmacBlockBytes < key.length then (sha1 key).toList else key

/-- K0 of R151: K' padded with 0x00 to a block. -/
def hmacBlockKey (key : List Byte) : List Byte :=
  hmacShortKey key ++ List.replicate (hmacBlockBytes - (hmacShortKey key).length) 0

/-- Byte-wise XOR with a block whose bytes are all `pad` (R150, R152). -/
def xorPad (pad : Byte) (bs : List Byte) : List Byte := bs.map (· ^^^ pad)

/-- `hmac_sha1` (R152): ipad is 0x36 and opad 0x5C (R150). Irreducible, as `sha1` is. -/
@[irreducible] def hmacSha1 (key msg : List Byte) : Digest :=
  sha1 (xorPad 0x5C (hmacBlockKey key) ++ (sha1 (xorPad 0x36 (hmacBlockKey key) ++ msg)).toList)

/-- The completion of HMAC (R154). -/
def hmacEffect (s : State) : State :=
  let k := s.readKey
  let m := s.readMsg k.2
  s.storeDigest (hmacSha1 k.1 m.1) m.2

/-- HMAC (R154). -/
def execHmac (s : State) : Host.Outcome State Fault Refusal :=
  commandStep .hmac [keylenCheck s, msglenCheck s] hmacEffect s

end Sys2Proof.Machine
end

