-- ==== Sys2Proof/Machine/Reducer.lean ====
section
/-! DEFINITION. The modular reducer (R190) and the command MODRED (R192). -/

namespace Sys2Proof.Machine

/-- `reduce` (R190): v mod 10^d, exact, for every d. -/
def reduce (v : Word) (d : Nat) : Word := BitVec.ofNat 32 (v.toNat % 10 ^ d)

/-- The completion of MODRED (R192). -/
def modredEffect (d : Nat) (s : State) : State := s.storeCode (reduce s.trunc d)

/-- MODRED (R192): "There is no digit validation". -/
def execModred (d : Nat) (s : State) : Host.Outcome State Fault Refusal :=
  commandStep (.modred d) [] (modredEffect d) s

end Sys2Proof.Machine
end

