-- ==== Sys2Proof/Machine/TimeStep.lean ====
section
/-! DEFINITION. The time-step counter (R200) and the command TSTEP (R202). -/

namespace Sys2Proof.Machine

/-- `time_counter` (R200): the unsigned quotient of epoch by interval. It is undefined for a zero interval, and is
never applied there (R202); a free value stands for it (log 2). -/
def timeCounter (t i : BitVec 64) : BitVec 64 :=
  if i = 0 then Config.zeroIntervalQuotient t else BitVec.ofNat 64 (t.toNat / i.toNat)

/-- The completion of TSTEP (R202). EPOCH and INTERVAL are not changed. -/
def tstepEffect (s : State) : State := s.storeCtr (timeCounter s.epoch s.interval)

/-- TSTEP (R202): refused with error INTERVAL when INTERVAL = 0. -/
def execTstep (s : State) : Host.Outcome State Fault Refusal := commandStep .tstep [intervalCheck s] tstepEffect s

end Sys2Proof.Machine
end

