-- ==== Sys2Proof/Machine/Truncator.lean ====
section
/-! DEFINITION. The dynamic truncator (R180) and the command TRUNC (R181). -/

namespace Sys2Proof.Machine

/-- The offset (R180): the low nibble of the digest's last byte. -/
def truncOffset (dg : Digest) : BitVec 4 := (dg[19]).extractLsb' 0 4

/-- Byte i of the selected window, D[o+i] for i in 0 to 3 (R180); the index is at most 18, so it is always in bounds. -/
def windowByte (dg : Digest) (i : Fin 4) : Byte :=
  dg[(truncOffset dg).toNat + i.val]'(by have := (truncOffset dg).isLt; omega)

/-- `truncate` (R180): the offset, and the window with its top bit cleared. -/
def truncate (dg : Digest) : BitVec 4 × Word :=
  (truncOffset dg,
    (((windowByte dg 0 &&& 0x7F).setWidth 32) <<< 24) ||| (((windowByte dg 1).setWidth 32) <<< 16)
      ||| (((windowByte dg 2).setWidth 32) <<< 8) ||| ((windowByte dg 3).setWidth 32))

/-- The completion of TRUNC (R181). -/
def truncEffect (s : State) : State := s.storeWindow (truncate s.digest).1 (truncate s.digest).2

/-- TRUNC (R181): "A decoded TRUNC raises no other error". -/
def execTrunc (s : State) : Host.Outcome State Fault Refusal := commandStep .trunc [] truncEffect s

end Sys2Proof.Machine
end

