-- ==== Sys2Proof/Machine/Pipeline.lean ====
section
/-! DEFINITION. The pipeline commands NOP (R210), HOTP (R211, R212) and TOTP (R214, R215). -/

namespace Sys2Proof.Machine

/-- NOP (R210): it goes busy and completes, and writes no operand or result register. -/
def execNop (s : State) : Host.Outcome State Fault Refusal := commandStep .nop [] id s

/-- Encoder, hasher, truncator, scaler on the counter c (R212): the message is the encoded counter, and each stage
takes what the one before it gives in this same command. -/
def codePipeline (c : BitVec 64) (d : Nat) (s : State) : State :=
  let k := s.readKey
  let dg := hmacSha1 k.1 (encodeCounter c)
  let w := truncate dg
  (((s.storeEncoded (encodeCounter c)).storeDigest dg k.2).storeWindow w.1 w.2).storeCode (reduce w.2 d)

/-- The completion of HOTP (R212). CTR is not changed. -/
def hotpEffect (d : Nat) (s : State) : State := codePipeline s.ctr d s

/-- The completion of TOTP (R215): the stages after the first use the new counter. -/
def totpEffect (d : Nat) (s : State) : State :=
  let c := timeCounter s.epoch s.interval
  codePipeline c d (s.storeCtr c)

/-- HOTP (R211): checks DIGITS, then KEYLEN. -/
def execHotp (d : Nat) (s : State) : Host.Outcome State Fault Refusal :=
  commandStep (.hotp d) [digitsCheck d, keylenCheck s] (hotpEffect d) s

/-- TOTP (R214): checks DIGITS, then INTERVAL, then KEYLEN. -/
def execTotp (d : Nat) (s : State) : Host.Outcome State Fault Refusal :=
  commandStep (.totp d) [digitsCheck d, intervalCheck s, keylenCheck s] (totpEffect d) s

end Sys2Proof.Machine
end

