-- ==== Sys2Proof/Machine/Dispatch.lean ====
section
/-! DEFINITION. One arm for each command. -/

namespace Sys2Proof.Machine

def exec (i : Instr) (s : State) : Host.Outcome State Fault Refusal :=
  match i with
  | .nop => Sys2Proof.Machine.execNop s
  | .encCtr => Sys2Proof.Machine.execEncCtr s
  | .hmac => Sys2Proof.Machine.execHmac s
  | .trunc => Sys2Proof.Machine.execTrunc s
  | .modred d => Sys2Proof.Machine.execModred d s
  | .tstep => Sys2Proof.Machine.execTstep s
  | .hotp d => Sys2Proof.Machine.execHotp d s
  | .totp d => Sys2Proof.Machine.execTotp d s

end Sys2Proof.Machine
end

