-- ==== Sys2Proof/Machine/Port.lean ====
section
/-! DEFINITION. The register port: the map of the window (R72), host reads and writes (R73 to R77), the BUSY lock
(R266), the CMD write that presents a command (R263), and the reset input (R260). -/

namespace Sys2Proof.Machine

/-- The words of the window (R72). A 64-bit register is two of them (R77). -/
inductive Reg where
  | id | param | ctrl | status | cmd | keylen | msglen
  | ctrHi | ctrLo | epochHi | epochLo | intervalHi | intervalLo
  | trunc | offset | code
  | digest (k : Nat)
  | key (k : Nat)
  | msg (k : Nat)
  | reserved
  deriving DecidableEq, Repr

/-- The single registers of the map (R72), by offset. -/
def regMap : List (Nat × Reg) :=
  [(0x000, .id), (0x004, .param), (0x008, .ctrl), (0x00C, .status), (0x010, .cmd), (0x014, .keylen), (0x018, .msglen),
   (0x020, .ctrHi), (0x024, .ctrLo), (0x028, .epochHi), (0x02C, .epochLo), (0x030, .intervalHi), (0x034, .intervalLo),
   (0x038, .trunc), (0x03C, .offset), (0x040, .code),
   (0x050, .digest 0), (0x054, .digest 1), (0x058, .digest 2), (0x05C, .digest 3), (0x060, .digest 4)]

/-- The word at an aligned offset of the window (R72). -/
def regAt (off : Nat) : Reg :=
  if 0x100 ≤ off ∧ off < 0x200 then .key ((off - 0x100) / 4)
  else if 0x200 ≤ off ∧ off < 0x240 then .msg ((off - 0x200) / 4)
  else (regMap.lookup off).getD .reserved

/-- The constant ID reads (R31): ASCII "OTP1". -/
def idWord : Word := 0x4F545031

/-- PARAM (R32): KEY_MAX in bits 15:0 and MSG_MAX in bits 31:16. -/
def paramWord (c : Config) : Word := 
  ((BitVec.ofNat 16 c.msgMax).setWidth 32 <<< 16) ||| (BitVec.ofNat 16 c.keyMax).setWidth 32

/-- What a host read of a word answers, and the free bytes drawn after it. KEY is write-only and reads 0 (R45); a MSG
byte never written is a free value (R46, R54); a MSG word at or beyond MSG_MAX reads 0 (R74). -/
def readReg (r : Reg) (s : State) : Word × Nat :=
  match r with
  | .id => (idWord, s.draws)
  | .param => (paramWord s.config, s.draws)
  | .ctrl => ((BitVec.ofBool s.ie).setWidth 32, s.draws)
  | .status => (s.statusWord, s.draws)
  | .cmd => (s.cmdLast, s.draws)
  | .keylen => (s.keylen.setWidth 32, s.draws)
  | .msglen => (s.msglen.setWidth 32, s.draws)
  | .ctrHi => (hiHalf s.ctr, s.draws)
  | .ctrLo => (loHalf s.ctr, s.draws)
  | .epochHi => (hiHalf s.epoch, s.draws)
  | .epochLo => (loHalf s.epoch, s.draws)
  | .intervalHi => (hiHalf s.interval, s.draws)
  | .intervalLo => (loHalf s.interval, s.draws)
  | .trunc => (s.trunc, s.draws)
  | .offset => (s.offset.setWidth 32, s.draws)
  | .code => (s.code, s.draws)
  | .digest k => (wordAt s.digest.toList k, s.draws)
  | .key _ => (0, s.draws)
  | .msg k =>
    if 4 * k < s.config.msgMax then
      (wordOfBytes (s.msg.readBytes (4 * k) 4 s.draws).1, (s.msg.readBytes (4 * k) 4 s.draws).2)
    else (0, s.draws)
  | .reserved => (0, s.draws)

/-- A host read: the answer stands on the port, and nothing else changes (R75) but the count of free bytes drawn. -/
def hostRead (r : Reg) (s : State) : State := { s with rdata := some (readReg r s).1, draws := (readReg r s).2 }

/-- A CMD write while BUSY = 0 presents a command word (R35, R263): an illegal word is error ILLEGAL, and a command is
accepted or refused by its own checks. -/
def presentCommand (w : Word) (s : State) : Host.Outcome State Fault Refusal :=
  match decode w with
  | .command i => exec i s
  | .illegal _ => .next (rejectWord w s)

/-- A write of any word but CMD that is performed. Writes to RO words and reserved offsets are ignored, and so are
writes to a KEY or MSG word at or beyond the parameter (R74). -/
def storeReg (r : Reg) (w : Word) (s : State) : State :=
  match r with
  | .id => s
  | .param => s
  | .ctrl => { s with ie := w.getLsbD 0 }
  | .status => writeStatus w s
  | .cmd => s
  | .keylen => { s with keylen := w.setWidth 16 }
  | .msglen => { s with msglen := w.setWidth 16 }
  | .ctrHi => { s with ctr := setHiHalf s.ctr w }
  | .ctrLo => { s with ctr := setLoHalf s.ctr w }
  | .epochHi => { s with epoch := setHiHalf s.epoch w }
  | .epochLo => { s with epoch := setLoHalf s.epoch w }
  | .intervalHi => { s with interval := setHiHalf s.interval w }
  | .intervalLo => { s with interval := setLoHalf s.interval w }
  | .trunc => { s with trunc := w }
  | .offset => s
  | .code => s
  | .digest _ => s
  | .key k => if 4 * k < s.config.keyMax then { s with key := s.key.setBytes (4 * k) (wordBytes w) } else s
  | .msg k => if 4 * k < s.config.msgMax then { s with msg := s.msg.setBytes (4 * k) (wordBytes w) } else s
  | .reserved => s

/-- The words the BUSY lock covers (R266): CMD, the operand registers, TRUNC, "any KEY word and any MSG word"
(DEDUCED for the words at or beyond the parameters: log 10). -/
def Reg.locked : Reg → Bool
  | .id => false
  | .param => false
  | .ctrl => false
  | .status => false
  | .cmd => true
  | .keylen => true
  | .msglen => true
  | .ctrHi => true
  | .ctrLo => true
  | .epochHi => true
  | .epochLo => true
  | .intervalHi => true
  | .intervalLo => true
  | .trunc => true
  | .offset => false
  | .code => false
  | .digest _ => false
  | .key _ => true
  | .msg _ => true
  | .reserved => false

/-- A host write (R263, R266): while BUSY = 1 a write to a locked word is dropped and sets OVR. -/
def hostWrite (r : Reg) (w : Word) (s : State) : Host.Outcome State Fault Refusal :=
  if s.busy && r.locked then .next s.setOvr
  else if r = .cmd then presentCommand w s
  else .next (storeReg r w s)

/-- Which word of the 4 KiB window an access reaches, or the fault it makes (R70, R73). -/
def portTarget (c : Config) (addr : Nat) (width : Width) : Except Fault Reg :=
  if addr < c.base ∨ c.base + 0x1000 ≤ addr then .error .outsideWindow
  else if width ≠ .w32 then .error .badWidth
  else if (addr - c.base) % 4 ≠ 0 then .error .misaligned
  else .ok (regAt (addr - c.base))

/-- `rst` asserted (R260): every piece of state takes its reset value, and a command in flight is abandoned. The
parameters are the instance's, and the port's script, last answer and draw count are not state of the block. -/
def State.assertReset (s : State) : State :=
  { State.reset with
    config := s.config
    rst := true
    script := s.script
    rdata := s.rdata
    draws := s.draws }

/-- The completion step (R264), enabled exactly when PENDING is not empty; an idle block waits (R261). -/
def completionStep (s : State) : Host.Outcome State Fault Refusal :=
  match s.pending with
  | some i => exec i s
  | none => .next s

/-- One host access: it has no step while `rst` is asserted (R260), and a bad one faults (R73). -/
def hostAccess (addr : Nat) (width : Width) (s : State) (run : Reg → Host.Outcome State Fault Refusal) :
    Host.Outcome State Fault Refusal :=
  if s.rst then .refused .accessDuringReset
  else
    match portTarget s.config addr width with
    | .error f => .fault f
    | .ok r => run r

/-- One event at the port (R81, R233). -/
def portEvent (e : PortEvent) (s : State) : Host.Outcome State Fault Refusal :=
  match e with
  | .tick => completionStep s
  | .read addr width => hostAccess addr width s fun r => .next (hostRead r s)
  | .write addr width value => hostAccess addr width s fun r => hostWrite r value s
  | .rst true => .next s.assertReset
  | .rst false => .next { s with rst := false }

/-- The port event that writes a word to CMD, offset 0x010 (R35, R109). -/
def cmdWrite (c : Config) (w : Word) : PortEvent := .write (c.base + 0x010) .w32 w

end Sys2Proof.Machine
end

