-- ==== Sys2Proof/Machine/Step.lean ====
section
/-! DEFINITION. One step of the machine. -/

namespace Sys2Proof.Machine

/-- One step (R81, R264): the next event at the port, or, when no event is left, the completion of the pending command
(R265: it always happens). With nothing left and nothing pending the block waits (R261). -/
def step (s : State) : Host.Outcome State Fault Refusal :=
  match s.script with
  | [] => completionStep s
  | e :: es => portEvent e { s with script := es }

/-- The state with a command word where the machine takes its next command: the next event at the port is a CMD write
of that word, made while the block is idle and out of reset. OTPCORE fetches nothing (R50, R85); a host's CMD write is
how a command reaches it (log 3). -/
def State.withFetchWord (s : State) (nbits w : Nat) : State :=
  { s with
    script := cmdWrite s.config (BitVec.ofNat 32 (w % 2 ^ nbits)) :: s.script
    pending := none
    rst := false }

end Sys2Proof.Machine
end

