-- ==== Sys2Proof/Machine/Assembler.lean ====
section
/-! DEFINITION. The host's notation (R109, R110, R111): what each line of a host program makes at the port. It is not
part of the hardware (D17); it says which port events a line stands for. -/

namespace Sys2Proof.Machine

/-- A 64-bit register that `rd64` names (R111). -/
inductive WideReg where
  | ctr | epoch | interval
  deriving DecidableEq, Repr

/-- One line of a host program. Register names stand by their offsets (`offsetOf`). -/
inductive AsmLine where
  | nop | encCtr | hmac | trunc
  | modred (d : Nat)
  | tstep
  | hotp (d : Option Nat)
  | totp (d : Option Nat)
  | wr (off imm : Nat)
  | rd (off : Nat)
  | ldctr (v : BitVec 64)
  | ldepoch (v : BitVec 64)
  | ldint (v : BitVec 64)
  | ldkey (bytes : List Byte)
  | ldmsg (bytes : List Byte)
  /-- The poll loop, in the run of it whose first `busyPolls` reads see BUSY = 1 (R111, R268). -/
  | wait (busyPolls : Nat)
  | rd64 (r : WideReg)
  | rddigest
  deriving DecidableEq, Repr

/-- The offset of a named word (R72); a reserved offset has no name and is written as a number (R110). -/
def offsetOf : Reg → Option Nat
  | .id => some 0x000
  | .param => some 0x004
  | .ctrl => some 0x008
  | .status => some 0x00C
  | .cmd => some 0x010
  | .keylen => some 0x014
  | .msglen => some 0x018
  | .ctrHi => some 0x020
  | .ctrLo => some 0x024
  | .epochHi => some 0x028
  | .epochLo => some 0x02C
  | .intervalHi => some 0x030
  | .intervalLo => some 0x034
  | .trunc => some 0x038
  | .offset => some 0x03C
  | .code => some 0x040
  | .digest k => if k < 5 then some (0x050 + 4 * k) else none
  | .key k => if k < 64 then some (0x100 + 4 * k) else none
  | .msg k => if k < 16 then some (0x200 + 4 * k) else none
  | .reserved => none

/-- `MemWrite(off, 4, w)` (R13). -/
def memWrite (c : Config) (off : Nat) (w : Word) : PortEvent := .write (c.base + off) .w32 w

/-- `MemRead(off, 4)` (R13). -/
def memRead (c : Config) (off : Nat) : PortEvent := .read (c.base + off) .w32

/-- A command line: the word written to CMD. "The assembler refuses `d > 15`" (R109). -/
def asmCommand (c : Config) (i : Instr) : Option (List PortEvent) :=
  if WellFormed i then some [memWrite c 0x010 (encode i)] else none

/-- The two writes of `ldctr`, `ldepoch` and `ldint`, HI first (R111). -/
def asmLoadWide (c : Config) (hiOff : Nat) (v : BitVec 64) : List PortEvent :=
  [memWrite c hiOff (hiHalf v), memWrite c (hiOff + 4) (loHalf v)]

/-- Word k of a byte string, "padded with 0x00 to 4 bytes" (R111). -/
def paddedWord (bs : List Byte) (k : Nat) : Word :=
  wordOfBytes (((bs.drop (4 * k)).take 4 ++ List.replicate 4 0).take 4)

/-- The writes of `ldkey` and `ldmsg` (R111): the words that hold the n bytes, then the length register. -/
def asmLoadBytes (c : Config) (windowOff lenOff : Nat) (bs : List Byte) : List PortEvent :=
  ((List.range ((bs.length + 3) / 4)).map fun k => memWrite c (windowOff + 4 * k) (paddedWord bs k))
    ++ [memWrite c lenOff (BitVec.ofNat 32 bs.length)]

/-- The offset of the HI half of a 64-bit register (R72). -/
def WideReg.hiOffset : WideReg → Nat
  | .ctr => 0x020
  | .epoch => 0x028
  | .interval => 0x030

/-- The port events of one line; none where the assembler refuses it (R109, R110, R111). An omitted digit count is 6. -/
def AsmLine.assemble (c : Config) : AsmLine → Option (List PortEvent)
  | .nop => asmCommand c .nop
  | .encCtr => asmCommand c .encCtr
  | .hmac => asmCommand c .hmac
  | .trunc => asmCommand c .trunc
  | .modred d => asmCommand c (.modred d)
  | .tstep => asmCommand c .tstep
  | .hotp d => asmCommand c (.hotp (d.getD 6))
  | .totp d => asmCommand c (.totp (d.getD 6))
  | .wr off imm => if imm < 2 ^ 32 then some [memWrite c off (BitVec.ofNat 32 imm)] else none
  | .rd off => some [memRead c off]
  | .ldctr v => some (asmLoadWide c 0x020 v)
  | .ldepoch v => some (asmLoadWide c 0x028 v)
  | .ldint v => some (asmLoadWide c 0x030 v)
  | .ldkey bs => if bs.length ≤ c.keyMax then some (asmLoadBytes c 0x100 0x014 bs) else none
  | .ldmsg bs => if bs.length ≤ c.msgMax then some (asmLoadBytes c 0x200 0x018 bs) else none
  | .wait n => some (List.replicate n (memRead c 0x00C) ++ [.tick, memRead c 0x00C])
  | .rd64 r => some [memRead c r.hiOffset, memRead c (r.hiOffset + 4)]
  | .rddigest => some ((List.range 5).map fun k => memRead c (0x050 + 4 * k))

/-- A host program: its lines one after another; none where a line is refused. -/
def assembleAll (c : Config) : List AsmLine → Option (List PortEvent)
  | [] => some []
  | l :: ls =>
    match l.assemble c, assembleAll c ls with
    | some es, some rest => some (es ++ rest)
    | _, _ => none

end Sys2Proof.Machine
end

