-- ==== Sys2Proof/Safety.lean ====
section
/-! DEFINITION. The terms claims use: what a run is, when it is over (R271), the invariant of the machine (R34, R47,
R55, R260), the check order over all commands at once (R232), and when two states hold the same results (R218). -/

namespace Sys2Proof.Machine

/-! ### Acceptance over all commands -/

/-- The commands that validate the digit count (R232). -/
def validatesDigits : Instr → Bool
  | .nop => false
  | .encCtr => false
  | .hmac => false
  | .trunc => false
  | .modred _ => false
  | .tstep => false
  | .hotp _ => true
  | .totp _ => true

/-- The commands that divide by INTERVAL (R232). -/
def dividesByInterval : Instr → Bool
  | .nop => false
  | .encCtr => false
  | .hmac => false
  | .trunc => false
  | .modred _ => false
  | .tstep => true
  | .hotp _ => false
  | .totp _ => true

/-- The commands that read KEY (R104, R232). -/
def readsKey : Instr → Bool
  | .nop => false
  | .encCtr => false
  | .hmac => true
  | .trunc => false
  | .modred _ => false
  | .tstep => false
  | .hotp _ => true
  | .totp _ => true

/-- The check of R232, in its one fixed order over all commands. The meanings carry their own lists of checks; that
the two agree is stated, not assumed. -/
def acceptanceCheck (i : Instr) (s : State) : Option ErrorCode :=
  if validatesDigits i = true ∧ ¬(i.digits = 6 ∨ i.digits = 7 ∨ i.digits = 8) then some .digits
  else if dividesByInterval i = true ∧ s.interval = 0 then some .interval
  else if readsKey i = true ∧ s.config.keyMax < s.keylen.toNat then some .keylen
  else if i = .hmac ∧ s.config.msgMax < s.msglen.toNat then some .msglen
  else none

/-! ### The invariant -/

/-- The invariants of STATUS (R34), and the codes that are never raised (R231). -/
def StatusOk (s : State) : Prop :=
  (s.busy = true → s.done = false ∧ s.err = false) ∧
  ¬(s.done = true ∧ s.err = true) ∧
  (s.errcode ≠ 0 ↔ s.err = true) ∧
  s.errcode.toNat ≤ 5

/-- The buffers keep their canonical form and lie inside their sizes (R45, R46, R55). -/
def BuffersOk (s : State) : Prop :=
  Memory.wf s.key ∧ (∀ x ∈ s.key, x.1 < s.config.keyMax) ∧
  Memory.wf s.msg ∧ (∀ x ∈ s.msg, x.1 < s.config.msgMax)

/-- A pending command is one a word can hold, and its operands still pass the checks of its acceptance (R47, R235). -/
def PendingOk (s : State) : Prop :=
  ∀ i, s.pending = some i → WellFormed i ∧ acceptanceCheck i s = none

/-- "While `rst` is asserted, every piece of state takes the reset value" (R260). -/
def ResetOk (s : State) : Prop := s.rst = true → s.assertReset = s

/-- The invariant of the machine. -/
structure Inv (s : State) : Prop where
  legal : s.config.Legal
  status : StatusOk s
  buffers : BuffersOk s
  pending : PendingOk s
  reset : ResetOk s

/-! ### Runs -/

/-- n steps of the machine, stopping at the first fault or refusal. -/
def run (n : Nat) (s : State) : Host.Outcome State Fault Refusal := Sys2Proof.core.run n s

/-- A run is over when the host has made its last access and PENDING is empty (R271). -/
def Final (s : State) : Prop := s.script = [] ∧ s.pending = none

/-- It is the completion's turn: the script gives it one, or has ended (R264, R265). -/
def CompletionTurn (s : State) : Prop := s.script = [] ∨ ∃ es, s.script = .tick :: es

/-- An access as R73 asks for it, inside the window of R70: 32 bits wide, at an offset that is a multiple of 4. -/
abbrev GoodAccess (c : Config) (addr : Nat) (width : Width) : Prop :=
  width = .w32 ∧ c.base ≤ addr ∧ addr < c.base + 4096 ∧ (addr - c.base) % 4 = 0

/-- The host keeps its obligations at the port: every access is an aligned 32-bit access inside the window (R73), and
none is made while `rst` is asserted (R260). The Bool is the level of `rst` before the events. -/
def WellBehaved (c : Config) : Bool → List PortEvent → Prop
  | _, [] => True
  | b, .tick :: es => WellBehaved c b es
  | b, .read addr width :: es => b = false ∧ GoodAccess c addr width ∧ WellBehaved c b es
  | b, .write addr width _ :: es => b = false ∧ GoodAccess c addr width ∧ WellBehaved c b es
  | _, .rst level :: es => WellBehaved c level es

/-- The events of a command written to CMD and left to complete. -/
def commandEvents (c : Config) (i : Instr) : List PortEvent := [cmdWrite c (encode i), .tick]

/-- The four single-unit commands of HOTP's pipeline, each left to complete (R212, R218). -/
def stageEvents (c : Config) (d : Nat) : List PortEvent :=
  commandEvents c .encCtr ++ commandEvents c .hmac ++ commandEvents c .trunc ++ commandEvents c (.modred d)

/-- The first n bytes of a buffer have been written (R54). -/
def Memory.Written (m : Memory) (n : Nat) : Prop := ∀ a, a < n → (m.get? a).isSome = true

/-- A list of bytes is what a buffer holds from byte 0 on, every one of them written (R36, R37, R54). -/
def Memory.Holds (m : Memory) (bs : List Byte) : Prop := ∀ j (h : j < bs.length), m.get? j = some bs[j]

/-- "Every register and buffer" of two states is the same; STATUS and CMD_LAST may differ (R218). -/
structure SameRegisters (s t : State) : Prop where
  config : s.config = t.config
  ie : s.ie = t.ie
  keylen : s.keylen = t.keylen
  msglen : s.msglen = t.msglen
  ctr : s.ctr = t.ctr
  epoch : s.epoch = t.epoch
  interval : s.interval = t.interval
  trunc : s.trunc = t.trunc
  offset : s.offset = t.offset
  code : s.code = t.code
  digest : s.digest = t.digest
  key : s.key = t.key
  msg : s.msg = t.msg

end Sys2Proof.Machine
end

