-- ==== Sys2Proof/Certificates/Slice0/Obligations.lean ====
section
/-! DEFINITION. The statements about OTPCORE for the provers. Each docstring names the rule it rests on. Where a step is
described, `es` is what is left of the port script after its first event. -/

open Sys2Proof Sys2Proof.Machine

/-! ### Command words -/

/-- R103, R105, D4: the word of every command decodes to that command, with every digit count the D field admits. -/
def Obligations.DecodeOfEncodeIsTheCommand : Prop :=
  ∀ i : Instr, WellFormed i → decode (encode i) = .command i

/-- R103, R105: a word that decodes to a command is that command's word, so a command has one word and a word at most
one command. -/
def Obligations.CommandWordIsUnique : Prop :=
  ∀ (w : Word) (i : Instr), decode w = .command i → WellFormed i ∧ encode i = w

/-- R106: the illegal words, in numbers: bits 31:12 not 0, or bits 7:0 at least 8, or bits 11:8 not 0 with an opcode
that takes no digit count. -/
def Obligations.IllegalWordsAreExactlyThese : Prop :=
  ∀ w : Word, (∃ why, decode w = .illegal why) ↔
    (w.toNat / 4096 ≠ 0 ∨ 8 ≤ w.toNat % 256 ∨
      (w.toNat / 256 % 16 ≠ 0 ∧ w.toNat % 256 ∈ [0x00, 0x01, 0x02, 0x03, 0x05]))

/-- R103, R109: words written out from the opcode map decode to their commands, and words of 95 §8.3 do not. -/
def Obligations.OpcodeMapWordsDecode : Prop :=
  decode 0x00000000 = .command .nop ∧ decode 0x00000001 = .command .encCtr ∧
  decode 0x00000002 = .command .hmac ∧ decode 0x00000003 = .command .trunc ∧
  decode 0x00000604 = .command (.modred 6) ∧ decode 0x00000F04 = .command (.modred 15) ∧
  decode 0x00000005 = .command .tstep ∧ decode 0x00000706 = .command (.hotp 7) ∧
  decode 0x00000807 = .command (.totp 8) ∧ decode 0x00000101 = .illegal .digitsNotTaken ∧
  decode 0x00000108 = .illegal .unknownOpcode ∧ decode 0x80000606 = .illegal .reservedBits

/-! ### A step -/

/-- R35, R263: a CMD write to an idle block whose word decodes to a command runs that command, on the state with the
event taken off the script. -/
def Obligations.CmdWriteRunsTheDecodedCommand : Prop :=
  ∀ (s : State) (w : Word) (i : Instr) (es : List PortEvent),
    s.script = .write (s.config.base + 0x010) .w32 w :: es → s.rst = false → s.pending = none →
    decode w = .command i → step s = exec i { s with script := es }

/-- R264, R265: the completion's turn, given by the script or by its end, runs the pending command. That the end of the
script gives it a turn is the model's form of fairness (log 3). -/
def Obligations.CompletionTurnRunsThePendingCommand : Prop :=
  ∀ (s : State) (i : Instr), s.pending = some i →
    (∀ es, s.script = .tick :: es → step s = exec i { s with script := es }) ∧
    (s.script = [] → step s = exec i s)

/-- R106, R230, R263: an illegal word written to CMD while the block is idle sets CMD_LAST, and ERR with code 1, and
changes nothing else but STATUS. -/
def Obligations.IllegalWordRaisesIllegal : Prop :=
  ∀ (s : State) (w : Word) (es : List PortEvent),
    s.script = .write (s.config.base + 0x010) .w32 w :: es → s.rst = false → s.pending = none →
    (w.toNat / 4096 ≠ 0 ∨ 8 ≤ w.toNat % 256 ∨
      (w.toNat / 256 % 16 ≠ 0 ∧ w.toNat % 256 ∈ [0x00, 0x01, 0x02, 0x03, 0x05])) →
    step s = .next { s with script := es, cmdLast := w, done := false, err := true, errcode := 1 }

/-- R263 with R232: what a CMD write does, whatever the word and the state. While BUSY = 1 it is dropped and sets OVR.
Otherwise CMD_LAST takes the word, DONE, ERR and ERRCODE are cleared, and the first failing check is reported or the
command becomes pending; nothing else changes. The codes are the numbers 1 to 5 of R231. -/
def Obligations.CmdWriteIsTheAcceptanceStep : Prop :=
  (∀ (s : State) (w : Word) (es : List PortEvent),
    s.script = .write (s.config.base + 0x010) .w32 w :: es → s.rst = false →
    step s = .next
      (if s.busy = true then { s with script := es, ovr := true }
      else match decode w with
        | .illegal _ => { s with script := es, cmdLast := w, done := false, err := true, errcode := 1 }
        | .command i =>
          match acceptanceCheck i s with
          | some k => { s with script := es, cmdLast := w, done := false, err := true, errcode := k.code }
          | none => { s with script := es, cmdLast := w, done := false, err := false, errcode := 0, pending := some i })) ∧
  ErrorCode.illegal.code = 1 ∧ ErrorCode.digits.code = 2 ∧ ErrorCode.interval.code = 3 ∧ ErrorCode.keylen.code = 4 ∧
  ErrorCode.msglen.code = 5

/-! ### Acceptance -/

/-- R232 with R263: an idle block accepts a command, or reports the first failing check in the fixed order ILLEGAL,
DIGITS, INTERVAL, KEYLEN, MSGLEN, and in either case changes nothing but CMD_LAST, STATUS and PENDING. HMAC, HOTP and
TOTP report 4 where KEYLEN is above KEY_MAX and no check before it fails, and HMAC reports 5 where MSGLEN is above MSG_MAX
(R231). -/
def Obligations.AcceptanceFollowsTheCheckOrder : Prop :=
  (∀ (i : Instr) (s : State), s.pending = none →
    exec i s = .next
      (match acceptanceCheck i s with
      | some k => { s with cmdLast := encode i, done := false, err := true, errcode := k.code }
      | none => { s with cmdLast := encode i, done := false, err := false, errcode := 0, pending := some i })) ∧
  (∀ s : State, s.pending = none → s.config.keyMax < s.keylen.toNat →
    exec .hmac s = .next { s with cmdLast := encode .hmac, done := false, err := true, errcode := 4 } ∧
    ∀ d, 6 ≤ d → d ≤ 8 →
      exec (.hotp d) s = .next { s with cmdLast := encode (.hotp d), done := false, err := true, errcode := 4 } ∧
      (s.interval ≠ 0 →
        exec (.totp d) s = .next { s with cmdLast := encode (.totp d), done := false, err := true, errcode := 4 })) ∧
  (∀ s : State, s.pending = none → s.keylen.toNat ≤ s.config.keyMax → s.config.msgMax < s.msglen.toNat →
    exec .hmac s = .next { s with cmdLast := encode .hmac, done := false, err := true, errcode := 5 })

/-- R211, R214, R231: HOTP and TOTP with a digit count other than 6, 7, 8 report DIGITS (2) whatever the other operands
are, and hash nothing: no register or buffer but CMD_LAST and STATUS changes. -/
def Obligations.BadDigitCountRaisesDigits : Prop :=
  ∀ (s : State) (d : Nat), s.pending = none → (d < 6 ∨ 8 < d) →
    exec (.hotp d) s = .next { s with cmdLast := encode (.hotp d), done := false, err := true, errcode := 2 } ∧
    exec (.totp d) s = .next { s with cmdLast := encode (.totp d), done := false, err := true, errcode := 2 }

/-- R202, R214, R231: TSTEP, and TOTP with a valid digit count, report INTERVAL (3) when INTERVAL = 0; CTR and all else
but CMD_LAST and STATUS keep their values. -/
def Obligations.ZeroIntervalRaisesInterval : Prop :=
  ∀ (s : State) (d : Nat), s.pending = none → s.interval = 0 → 6 ≤ d → d ≤ 8 →
    exec .tstep s = .next { s with cmdLast := encode .tstep, done := false, err := true, errcode := 3 } ∧
    exec (.totp d) s = .next { s with cmdLast := encode (.totp d), done := false, err := true, errcode := 3 }

/-! ### Completion: every command's own effect and its frame -/

/-- R210: NOP completes and writes no operand or result register. -/
def Obligations.NopCompletes : Prop :=
  ∀ s : State, s.pending = some .nop → exec .nop s = .next { s with pending := none, done := true }

/-- R131: ENC_CTR writes the counter, most significant byte first, to MSG[0..7] and 8 to MSGLEN; every other byte of
MSG and every other register keeps its value. -/
def Obligations.EncCtrCompletes : Prop :=
  ∀ s : State, s.pending = some .encCtr → ∃ t, exec .encCtr s = .next t ∧
    t = { s with msg := t.msg, msglen := 8, pending := none, done := true } ∧
    (∀ a, a < 8 → t.msg.get? a = some (BitVec.ofNat 8 (s.ctr.toNat / 256 ^ (7 - a)))) ∧
    (∀ a, 8 ≤ a → t.msg.get? a = s.msg.get? a)

/-- R154: HMAC over written key and message bytes writes their HMAC-SHA1 to DIGEST and changes nothing else. -/
def Obligations.HmacCompletes : Prop :=
  ∀ (s : State) (k m : List Byte), s.pending = some .hmac →
    k.length = s.keylen.toNat → s.key.Holds k → m.length = s.msglen.toNat → s.msg.Holds m →
    exec .hmac s = .next { s with digest := hmacSha1 k m, pending := none, done := true }

/-- R54, R154: HMAC completes whatever bytes were written: bytes never written make DIGEST unspecified and nothing
else. The count of free bytes drawn is the model's own (log 1). -/
def Obligations.HmacCompletesOnUnwrittenBytes : Prop :=
  ∀ s : State, s.pending = some .hmac → ∃ dg n, s.draws ≤ n ∧
    exec .hmac s = .next { s with digest := dg, draws := n, pending := none, done := true }

/-- R181: TRUNC writes the low nibble of DIGEST[19] to OFFSET, and the big-endian value of the four bytes from there,
less bit 31, to TRUNC; nothing else changes. -/
def Obligations.TruncCompletes : Prop :=
  ∀ s : State, s.pending = some .trunc → ∃ t, exec .trunc s = .next t ∧
    t = { s with offset := t.offset, trunc := t.trunc, pending := none, done := true } ∧
    t.offset.toNat = (s.digest[19]).toNat % 16 ∧
    t.trunc.toNat = beValue ((s.digest.toList.drop t.offset.toNat).take 4) % 2 ^ 31

/-- R192: MODRED d writes TRUNC mod 10^d to CODE, for every d, and changes nothing else. -/
def Obligations.ModredCompletes : Prop :=
  ∀ (s : State) (d : Nat), s.pending = some (.modred d) → ∃ t, exec (.modred d) s = .next t ∧
    t = { s with code := t.code, pending := none, done := true } ∧
    t.code.toNat = s.trunc.toNat % 10 ^ d

/-- R202: TSTEP writes the quotient of EPOCH by INTERVAL to CTR and changes nothing else. -/
def Obligations.TstepCompletes : Prop :=
  ∀ s : State, s.pending = some .tstep → s.interval ≠ 0 → ∃ t, exec .tstep s = .next t ∧
    t = { s with ctr := t.ctr, pending := none, done := true } ∧
    t.ctr.toNat = s.epoch.toNat / s.interval.toNat

/-- R211, R212: HOTP d over a written key writes MSG[0..7], MSGLEN, DIGEST, OFFSET, TRUNC and CODE as its four stages
give them, and nothing else: CTR keeps its value. -/
def Obligations.HotpCompletes : Prop :=
  ∀ (s : State) (d : Nat) (k : List Byte), s.pending = some (.hotp d) →
    k.length = s.keylen.toNat → s.key.Holds k → ∃ t, exec (.hotp d) s = .next t ∧
    t = { s with msg := t.msg, msglen := 8, digest := hmacSha1 k (encodeCounter s.ctr), offset := t.offset,
                 trunc := t.trunc, code := t.code, pending := none, done := true } ∧
    (∀ a, a < 8 → t.msg.get? a = some (BitVec.ofNat 8 (s.ctr.toNat / 256 ^ (7 - a)))) ∧
    (∀ a, 8 ≤ a → t.msg.get? a = s.msg.get? a) ∧
    t.offset.toNat = (t.digest[19]).toNat % 16 ∧
    t.trunc.toNat = beValue ((t.digest.toList.drop t.offset.toNat).take 4) % 2 ^ 31 ∧
    t.code.toNat = t.trunc.toNat % 10 ^ d

/-- R214, R215: TOTP d over a written key and a nonzero INTERVAL writes CTR, the quotient, and what HOTP writes for that
new counter. -/
def Obligations.TotpCompletes : Prop :=
  ∀ (s : State) (d : Nat) (k : List Byte), s.pending = some (.totp d) → s.interval ≠ 0 →
    k.length = s.keylen.toNat → s.key.Holds k → ∃ t, exec (.totp d) s = .next t ∧
    t = { s with ctr := t.ctr, msg := t.msg, msglen := 8, digest := hmacSha1 k (encodeCounter t.ctr),
                 offset := t.offset, trunc := t.trunc, code := t.code, pending := none, done := true } ∧
    t.ctr.toNat = s.epoch.toNat / s.interval.toNat ∧
    (∀ a, a < 8 → t.msg.get? a = some (BitVec.ofNat 8 (t.ctr.toNat / 256 ^ (7 - a)))) ∧
    (∀ a, 8 ≤ a → t.msg.get? a = s.msg.get? a) ∧
    t.offset.toNat = (t.digest[19]).toNat % 16 ∧
    t.trunc.toNat = beValue ((t.digest.toList.drop t.offset.toNat).take 4) % 2 ^ 31 ∧
    t.code.toNat = t.trunc.toNat % 10 ^ d

/-- R54, R212, R215: HOTP and TOTP complete on key bytes never written too: DIGEST is then unspecified, and OFFSET,
TRUNC and CODE follow from it. -/
def Obligations.CodesCompleteOnUnwrittenKeys : Prop :=
  ∀ (s : State) (d : Nat),
    (s.pending = some (.hotp d) → ∃ dg n, s.draws ≤ n ∧ exec (.hotp d) s = .next
      { s with msg := s.msg.setBytes 0 (encodeCounter s.ctr), msglen := 8, digest := dg, draws := n,
               offset := (truncate dg).1, trunc := (truncate dg).2, code := reduce (truncate dg).2 d,
               pending := none, done := true }) ∧
    (s.pending = some (.totp d) → s.interval ≠ 0 → ∃ dg n c, s.draws ≤ n ∧
      c.toNat = s.epoch.toNat / s.interval.toNat ∧ exec (.totp d) s = .next
      { s with ctr := c, msg := s.msg.setBytes 0 (encodeCounter c), msglen := 8, digest := dg, draws := n,
               offset := (truncate dg).1, trunc := (truncate dg).2, code := reduce (truncate dg).2 d,
               pending := none, done := true })

/-- R235, R264: a pending command always completes, without error: PENDING is emptied, DONE set, and ERR, ERRCODE, OVR,
CMD_LAST, CTRL, KEYLEN, EPOCH, INTERVAL, KEY and every byte of MSG from 8 on keep their values. -/
def Obligations.AcceptedCommandsCompleteWithoutError : Prop :=
  ∀ (i : Instr) (s : State), s.pending = some i → ∃ t, exec i s = .next t ∧
    t.pending = none ∧ t.done = true ∧ t.err = s.err ∧ t.errcode = s.errcode ∧ t.ovr = s.ovr ∧
    t.cmdLast = s.cmdLast ∧ t.ie = s.ie ∧ t.keylen = s.keylen ∧ t.epoch = s.epoch ∧ t.interval = s.interval ∧
    t.key = s.key ∧ t.config = s.config ∧ ∀ a, 8 ≤ a → t.msg.get? a = s.msg.get? a

/-! ### Relations between commands -/

/-- R218: HOTP d leaves every register and buffer as the four single-unit commands one after another do. The key bytes
are written (R54). -/
def Obligations.HotpIsItsFourStages : Prop :=
  ∀ (s : State) (d : Nat), s.config.Legal → s.rst = false → s.pending = none →
    s.keylen.toNat ≤ s.config.keyMax → (d = 6 ∨ d = 7 ∨ d = 8) → s.key.Written s.keylen.toNat →
    ∃ t u, run 2 { s with script := commandEvents s.config (.hotp d) } = .next t ∧
      run 8 { s with script := stageEvents s.config d } = .next u ∧
      t.done = true ∧ u.done = true ∧ SameRegisters t u

/-- R218: TOTP d leaves every register and buffer as TSTEP and then the four single-unit commands do. -/
def Obligations.TotpIsItsFiveStages : Prop :=
  ∀ (s : State) (d : Nat), s.config.Legal → s.rst = false → s.pending = none →
    s.keylen.toNat ≤ s.config.keyMax → (d = 6 ∨ d = 7 ∨ d = 8) → s.interval ≠ 0 → s.key.Written s.keylen.toNat →
    ∃ t u, run 2 { s with script := commandEvents s.config (.totp d) } = .next t ∧
      run 10 { s with script := commandEvents s.config .tstep ++ stageEvents s.config d } = .next u ∧
      t.done = true ∧ u.done = true ∧ SameRegisters t u

/-- R213: the key bytes, CTR and d at acceptance decide CODE, DIGEST, TRUNC and OFFSET of HOTP, whatever else two states
hold. -/
def Obligations.HotpDependsOnKeyCounterAndDigitsOnly : Prop :=
  ∀ (s t : State) (d : Nat), s.pending = some (.hotp d) → t.pending = some (.hotp d) →
    s.keylen = t.keylen → s.ctr = t.ctr → s.key.Written s.keylen.toNat →
    (∀ a, a < s.keylen.toNat → s.key.get? a = t.key.get? a) →
    ∃ s' t', exec (.hotp d) s = .next s' ∧ exec (.hotp d) t = .next t' ∧
      s'.digest = t'.digest ∧ s'.offset = t'.offset ∧ s'.trunc = t'.trunc ∧ s'.code = t'.code

/-- R216: two TOTP commands with the same key, INTERVAL and d whose EPOCH values fall in the same interval give the same
CODE. -/
def Obligations.TotpIsConstantWithinAnInterval : Prop :=
  ∀ (s t : State) (d : Nat), s.pending = some (.totp d) → t.pending = some (.totp d) →
    s.interval = t.interval → s.interval ≠ 0 →
    s.epoch.toNat / s.interval.toNat = t.epoch.toNat / t.interval.toNat →
    s.keylen = t.keylen → s.key.Written s.keylen.toNat →
    (∀ a, a < s.keylen.toNat → s.key.get? a = t.key.get? a) →
    ∃ s' t', exec (.totp d) s = .next s' ∧ exec (.totp d) t = .next t' ∧ s'.code = t'.code ∧ s'.ctr = t'.ctr

/-- R265: how many STATUS polls the host makes before the completion changes nothing but the answer on the port. Where the
key or message range of the command includes a byte never written, R54 leaves DIGEST and what follows from it unspecified:
that the two runs agree there too is the model's choice (log 1: both draw the same free bytes), and no fact about the
hardware. -/
def Obligations.PollingDoesNotChangeTheResult : Prop :=
  ∀ (s : State) (i : Instr) (n : Nat), s.rst = false → s.pending = none → WellFormed i →
    acceptanceCheck i s = none →
    ∃ t u, run (n + 2) { s with script := cmdWrite s.config (encode i) ::
        (List.replicate n (memRead s.config 0x00C) ++ [.tick]) } = .next t ∧
      run 2 { s with script := commandEvents s.config i } = .next u ∧ { t with rdata := u.rdata } = u

/-! ### The units -/

/-- R130: `encode_counter` gives 8 bytes whose big-endian value is the counter, and every 8 bytes are the encoding of
their value: a bijection. -/
def Obligations.CounterEncodingIsABijection : Prop :=
  (∀ c : BitVec 64, (encodeCounter c).length = 8 ∧ beValue (encodeCounter c) = c.toNat ∧
    ∀ i, i < 8 → (encodeCounter c)[i]? = some (c.extractLsb' (56 - 8 * i) 8)) ∧
  (∀ bs : List Byte, bs.length = 8 → encodeCounter (BitVec.ofNat 64 (beValue bs)) = bs)

/-- R143, R146, R147, R148: the standard digests of "abc" and of the empty message; the digest of 56 bytes of "a" and of
80 bytes 0xAA, two blocks each (95_test_vectors.md §2.1); the compression of a block, with f_t and K_t of R145 written out;
and the hash as the compressions of the padded message's blocks, in order, from the initial value on, its five words
big-endian. -/
def Obligations.Sha1StandardDigests : Prop :=
  (sha1 [0x61, 0x62, 0x63]).toList = beBytes 20 0xa9993e364706816aba3e25717850c26c9cd0d89d ∧
  (sha1 []).toList = beBytes 20 0xda39a3ee5e6b4b0d3255bfef95601890afd80709 ∧
  (sha1 (List.replicate 56 0x61)).toList = beBytes 20 0xc2db330f6083854c99d4b5bfb6e8f29f201be699 ∧
  (sha1 (List.replicate 80 0xAA)).toList = beBytes 20 0x4ca0ef38f1794b28a8f8ee110ee79d48ce13be25 ∧
  (∀ (h : HashWords) (block : List Byte), ∃ r : HashWords,
    r = (List.range 80).foldl (fun (x : HashWords) t =>
      { a := x.a.rotateLeft 5 +
          (if t < 20 then (x.b &&& x.c) ^^^ (~~~x.b &&& x.d) else if t < 40 then x.b ^^^ x.c ^^^ x.d
            else if t < 60 then (x.b &&& x.c) ^^^ (x.b &&& x.d) ^^^ (x.c &&& x.d) else x.b ^^^ x.c ^^^ x.d) +
          x.e +
          (if t < 20 then 0x5A827999 else if t < 40 then 0x6ED9EBA1 else if t < 60 then 0x8F1BBCDC else 0xCA62C1D6) +
          (sha1Schedule block).getD t 0
        b := x.a
        c := x.b.rotateLeft 30
        d := x.c
        e := x.d }) h ∧
    sha1Compress h block = { a := h.a + r.a, b := h.b + r.b, c := h.c + r.c, d := h.d + r.d, e := h.e + r.e }) ∧
  (∀ m : List Byte, ∃ h : HashWords,
    h = (List.range ((m.length + 8) / 64 + 1)).foldl
      (fun x i => sha1Compress x (((sha1Pad m).drop (64 * i)).take 64))
      { a := 0x67452301, b := 0xEFCDAB89, c := 0x98BADCFE, d := 0x10325476, e := 0xC3D2E1F0 } ∧
    (sha1 m).toList = beBytes 4 h.a.toNat ++ beBytes 4 h.b.toNat ++ beBytes 4 h.c.toNat ++ beBytes 4 h.d.toNat ++
      beBytes 4 h.e.toNat)

/-- R141: the padded message is the message, 0x80, k zeros and the bit length in 8 bytes, k being the least that
fills whole blocks, and it has floor((n + 8) / 64) + 1 of them. -/
def Obligations.Sha1PaddingFillsWholeBlocks : Prop :=
  ∀ m : List Byte, ∃ k, sha1Pad m = m ++ [0x80] ++ List.replicate k 0 ++ beBytes 8 (8 * m.length) ∧
    (m.length + 1 + k) % 64 = 56 ∧ (∀ j, j < k → (m.length + 1 + j) % 64 ≠ 56) ∧
    (sha1Pad m).length = 64 * ((m.length + 8) / 64 + 1)

/-- R144: the schedule has 80 words, the first sixteen those of the block, and each later one the rotated XOR of four
earlier ones. -/
def Obligations.Sha1ScheduleRecurrence : Prop :=
  ∀ block : List Byte, (sha1Schedule block).length = 80 ∧
    (∀ t, t < 16 → (sha1Schedule block)[t]? = some (wordAt block t)) ∧
    (∀ t, 16 ≤ t → t < 80 → (sha1Schedule block).getD t 0 =
      ((sha1Schedule block).getD (t - 3) 0 ^^^ (sha1Schedule block).getD (t - 8) 0 ^^^
        (sha1Schedule block).getD (t - 14) 0 ^^^ (sha1Schedule block).getD (t - 16) 0).rotateLeft 1)

/-- R151, R152: the block key is the key, or its SHA-1 digest where the key is longer than 64 bytes, padded with zero bytes
to 64, so that a key of 64 bytes is used as it is; the HMAC is the hash of the block key with 0x5C before the hash of the
block key with 0x36 before the message. It follows that a key longer than 64 bytes counts as its digest and that a trailing
zero byte of a shorter key does not count; the vectors are H9, H10 and H12 of 95_test_vectors.md §2.2. -/
def Obligations.HmacKeyPreparation : Prop :=
  (∀ k m : List Byte, ∃ k0 : List Byte, k0.length = 64 ∧
    (k.length ≤ 64 → k0 = k ++ List.replicate (64 - k.length) 0) ∧
    (64 < k.length → k0 = (sha1 k).toList ++ List.replicate 44 0) ∧
    hmacSha1 k m = sha1 (k0.map (· ^^^ 0x5C) ++ (sha1 (k0.map (· ^^^ 0x36) ++ m)).toList)) ∧
  (∀ k m : List Byte, 64 < k.length → hmacSha1 k m = hmacSha1 (sha1 k).toList m) ∧
  (∀ k m : List Byte, k.length < 64 → hmacSha1 (k ++ [0]) m = hmacSha1 k m) ∧
  (hmacSha1 (List.replicate 64 0x01) []).toList = beBytes 20 0x0888afd5d6300783be6638d3aff5842bfdf995a9 ∧
  (hmacSha1 (List.replicate 65 0x01) []).toList = beBytes 20 0x7cd62fb37e64b498aa4efd65cdf72a88e6f121e6 ∧
  (hmacSha1 [0x31, 0x32, 0x33, 0x34, 0x35, 0x36, 0x37, 0x38, 0x39, 0x30, 0x31, 0x32, 0x33, 0x34, 0x35, 0x36, 0x37, 0x38,
    0x39, 0x30] (List.replicate 8 0)).toList = beBytes 20 0xcc93cf18508d94934c64b65d8ba7667fb7cde4b0

/-- R180: the offset is the low nibble of byte 19, the window ends at byte 18 at the latest, the value is the window's
without bit 31 and below 2^31, and the upper nibble of byte 19 never matters. -/
def Obligations.TruncationSelectsTheWindow : Prop :=
  (∀ dg : Digest, (truncate dg).1.toNat = (dg[19]).toNat % 16 ∧ (truncate dg).1.toNat + 3 ≤ 18 ∧
    (truncate dg).2.toNat = beValue ((dg.toList.drop (truncate dg).1.toNat).take 4) % 2 ^ 31 ∧
    (truncate dg).2.toNat < 2 ^ 31) ∧
  (∀ dg dg' : Digest, (∀ i (h : i < 19), dg[i] = dg'[i]) → (dg[19]).toNat % 16 = (dg'[19]).toNat % 16 →
    truncate dg = truncate dg')

/-- R190: `reduce(v, d)` is v mod 10^d; it is below 10^d, at most v, 0 for d = 0, and v itself for d ≥ 10. -/
def Obligations.ReductionIsTheRemainder : Prop :=
  ∀ (v : Word) (d : Nat), (reduce v d).toNat = v.toNat % 10 ^ d ∧ (reduce v d).toNat < 10 ^ d ∧
    (reduce v d).toNat ≤ v.toNat ∧ reduce v 0 = 0 ∧ (10 ≤ d → reduce v d = v)

/-- R200, R201: `time_counter` is the floor of the quotient for a nonzero interval, never above the epoch; the document's
three values hold. -/
def Obligations.TimeCounterIsTheQuotient : Prop :=
  (∀ t i : BitVec 64, i ≠ 0 → (timeCounter t i).toNat = t.toNat / i.toNat ∧ (timeCounter t i).toNat ≤ t.toNat) ∧
  (∀ t : BitVec 64, timeCounter t 1 = t) ∧
  (∀ t i : BitVec 64, t.toNat < i.toNat → timeCounter t i = 0) ∧
  timeCounter (BitVec.allOnes 64) (BitVec.allOnes 64) = 1 ∧
  timeCounter 59 30 = 1 ∧ timeCounter 0 30 = 0 ∧ timeCounter 29999999 30 = 999999

/-! ### The port: reads -/

/-- R31 to R44, R72: what a read of each single register answers; a read changes nothing but the answer on the port
(R75), and is the same while BUSY = 1 (R266). -/
def Obligations.RegisterReadsAnswerTheMap : Prop :=
  ∀ (s : State) (es : List PortEvent) (off : Nat) (v : Word),
    s.script = .read (s.config.base + off) .w32 :: es → s.rst = false →
    (off, v) ∈ [(0x000, (0x4F545031 : Word)), (0x004, paramWord s.config), (0x008, (BitVec.ofBool s.ie).setWidth 32),
      (0x00C, s.statusWord), (0x010, s.cmdLast), (0x014, s.keylen.setWidth 32), (0x018, s.msglen.setWidth 32),
      (0x020, s.ctr.extractLsb' 32 32), (0x024, s.ctr.extractLsb' 0 32), (0x028, s.epoch.extractLsb' 32 32),
      (0x02C, s.epoch.extractLsb' 0 32), (0x030, s.interval.extractLsb' 32 32), (0x034, s.interval.extractLsb' 0 32),
      (0x038, s.trunc), (0x03C, s.offset.setWidth 32), (0x040, s.code),
      (0x050, wordOfBytes [s.digest[0], s.digest[1], s.digest[2], s.digest[3]]),
      (0x054, wordOfBytes [s.digest[4], s.digest[5], s.digest[6], s.digest[7]]),
      (0x058, wordOfBytes [s.digest[8], s.digest[9], s.digest[10], s.digest[11]]),
      (0x05C, wordOfBytes [s.digest[12], s.digest[13], s.digest[14], s.digest[15]]),
      (0x060, wordOfBytes [s.digest[16], s.digest[17], s.digest[18], s.digest[19]])] →
    step s = .next { s with script := es, rdata := some v }

/-- R32: PARAM holds KEY_MAX in bits 15:0 and MSG_MAX in bits 31:16 for every legal pair, 0x00400100 at the defaults. -/
def Obligations.ParamHoldsTheBufferSizes : Prop :=
  (∀ c : Config, c.Legal → (paramWord c).toNat = c.msgMax * 65536 + c.keyMax) ∧
  paramWord State.reset.config = 0x00400100

/-- R34: STATUS holds BUSY in bit 0 (1 exactly when PENDING is not empty), DONE in 1, ERR in 2, OVR in 3, ERRCODE in
11:8, and 0 in every other bit. -/
def Obligations.StatusBits : Prop :=
  ∀ (s : State) (i : Nat), i < 32 → s.statusWord.getLsbD i =
    (if i = 0 then s.pending.isSome else if i = 1 then s.done else if i = 2 then s.err else if i = 3 then s.ovr
     else if 8 ≤ i ∧ i ≤ 11 then s.errcode.getLsbD (i - 8) else false)

/-- R45, R46, R76: a read of any KEY word answers 0, and a read of a MSG word whose bytes are written answers their
big-endian value; neither changes anything else. -/
def Obligations.BufferReads : Prop :=
  ∀ (s : State) (es : List PortEvent) (k : Nat), s.rst = false →
    (k < 64 → s.script = .read (s.config.base + (0x100 + 4 * k)) .w32 :: es →
      step s = .next { s with script := es, rdata := some 0 }) ∧
    (k < 16 → 4 * k < s.config.msgMax → s.script = .read (s.config.base + (0x200 + 4 * k)) .w32 :: es →
      ∀ b0 b1 b2 b3 : Byte, s.msg.get? (4 * k) = some b0 → s.msg.get? (4 * k + 1) = some b1 →
      s.msg.get? (4 * k + 2) = some b2 → s.msg.get? (4 * k + 3) = some b3 →
      step s = .next { s with script := es, rdata := some (wordOfBytes [b0, b1, b2, b3]) })

/-- R54, R75: every aligned 32-bit read in the window is answered, and changes nothing but the answer and the count of
free bytes drawn. -/
def Obligations.ReadsHaveNoSideEffects : Prop :=
  ∀ (s : State) (es : List PortEvent) (off : Nat), off < 4096 → off % 4 = 0 →
    s.script = .read (s.config.base + off) .w32 :: es → s.rst = false →
    ∃ v n, s.draws ≤ n ∧ step s = .next { s with script := es, rdata := some v, draws := n }

/-- R45, R87: nothing a port event does, save the completion of a command that reads KEY, depends on what KEY holds,
but KEY itself: not the next state, the answer to a read among it, and not a fault or a refusal. Reads and writes made
while HMAC, HOTP or TOTP is in flight are among the events. -/
def Obligations.KeyStaysInTheBlock : Prop :=
  ∀ (s : State) (key' : Memory), (CompletionTurn s → ∀ i, s.pending = some i → readsKey i = false) →
    (∀ t, step s = .next t → ∃ key'', step { s with key := key' } = .next { t with key := key'' }) ∧
    (∀ f, step s = .fault f → step { s with key := key' } = .fault f) ∧
    (∀ r, step s = .refused r → step { s with key := key' } = .refused r)

/-! ### The port: writes -/

/-- R36, R37, R41: a write of KEYLEN or MSGLEN to an idle block stores bits 15:0 of the word, a write of TRUNC all of it,
and nothing else changes. -/
def Obligations.OperandWrites : Prop :=
  ∀ (s : State) (es : List PortEvent) (off : Nat) (w : Word),
    s.script = .write (s.config.base + off) .w32 w :: es → s.rst = false → s.pending = none →
    (off = 0x014 → step s = .next { s with script := es, keylen := w.setWidth 16 }) ∧
    (off = 0x018 → step s = .next { s with script := es, msglen := w.setWidth 16 }) ∧
    (off = 0x038 → step s = .next { s with script := es, trunc := w })

/-- R77: a write of one half of a 64-bit register to an idle block leaves the other half unchanged. -/
def Obligations.HalfWritesKeepTheOtherHalf : Prop :=
  ∀ (s : State) (es : List PortEvent) (off : Nat) (w : Word),
    s.script = .write (s.config.base + off) .w32 w :: es → s.rst = false → s.pending = none →
    off ∈ [0x020, 0x024, 0x028, 0x02C, 0x030, 0x034] →
    ∃ t, step s = .next t ∧
      t = { s with script := es, ctr := t.ctr, epoch := t.epoch, interval := t.interval } ∧
      t.ctr.toNat = (if off = 0x020 then w.toNat else s.ctr.toNat / 2 ^ 32) * 2 ^ 32 +
        (if off = 0x024 then w.toNat else s.ctr.toNat % 2 ^ 32) ∧
      t.epoch.toNat = (if off = 0x028 then w.toNat else s.epoch.toNat / 2 ^ 32) * 2 ^ 32 +
        (if off = 0x02C then w.toNat else s.epoch.toNat % 2 ^ 32) ∧
      t.interval.toNat = (if off = 0x030 then w.toNat else s.interval.toNat / 2 ^ 32) * 2 ^ 32 +
        (if off = 0x034 then w.toNat else s.interval.toNat % 2 ^ 32)

/-- R45, R76: a write of a KEY word below KEY_MAX to an idle block stores its four bytes, most significant first, and
changes no other byte of KEY and nothing else. -/
def Obligations.KeyWordWriteStoresFourBytes : Prop :=
  ∀ (s : State) (es : List PortEvent) (k : Nat) (w : Word), k < 64 → 4 * k < s.config.keyMax →
    s.script = .write (s.config.base + (0x100 + 4 * k)) .w32 w :: es → s.rst = false → s.pending = none →
    ∃ t, step s = .next t ∧ t = { s with script := es, key := t.key } ∧
      (∀ j, j < 4 → t.key.get? (4 * k + j) = some (w.extractLsb' (24 - 8 * j) 8)) ∧
      (∀ a, a < 4 * k ∨ 4 * k + 4 ≤ a → t.key.get? a = s.key.get? a)

/-- R46, R76: the same for a MSG word below MSG_MAX. -/
def Obligations.MsgWordWriteStoresFourBytes : Prop :=
  ∀ (s : State) (es : List PortEvent) (k : Nat) (w : Word), k < 16 → 4 * k < s.config.msgMax →
    s.script = .write (s.config.base + (0x200 + 4 * k)) .w32 w :: es → s.rst = false → s.pending = none →
    ∃ t, step s = .next t ∧ t = { s with script := es, msg := t.msg } ∧
      (∀ j, j < 4 → t.msg.get? (4 * k + j) = some (w.extractLsb' (24 - 8 * j) 8)) ∧
      (∀ a, a < 4 * k ∨ 4 * k + 4 ≤ a → t.msg.get? a = s.msg.get? a)

/-- R74, R7: a reserved offset reads 0 and ignores writes, busy or not; writes to RO words are ignored; KEY and MSG
words at or beyond the parameters read 0 and, on an idle block, ignore writes. -/
def Obligations.ReservedOffsetsReadZeroIgnoreWrites : Prop :=
  ∀ (s : State) (es : List PortEvent) (off : Nat) (w : Word), off < 4096 → off % 4 = 0 → s.rst = false →
    ((off = 0x01C ∨ (0x044 ≤ off ∧ off ≤ 0x04C) ∨ (0x064 ≤ off ∧ off ≤ 0x0FC) ∨ 0x240 ≤ off) ∨
      (0x100 ≤ off ∧ off < 0x200 ∧ s.config.keyMax ≤ off - 0x100) ∨
      (0x200 ≤ off ∧ off < 0x240 ∧ s.config.msgMax ≤ off - 0x200) →
      s.script = .read (s.config.base + off) .w32 :: es →
      step s = .next { s with script := es, rdata := some 0 }) ∧
    ((off = 0x01C ∨ (0x044 ≤ off ∧ off ≤ 0x04C) ∨ (0x064 ≤ off ∧ off ≤ 0x0FC) ∨ 0x240 ≤ off) ∨
      off ∈ [0x000, 0x004, 0x03C, 0x040, 0x050, 0x054, 0x058, 0x05C, 0x060] ∨
      (s.pending = none ∧ 0x100 ≤ off ∧ off < 0x200 ∧ s.config.keyMax ≤ off - 0x100) ∨
      (s.pending = none ∧ 0x200 ≤ off ∧ off < 0x240 ∧ s.config.msgMax ≤ off - 0x200) →
      s.script = .write (s.config.base + off) .w32 w :: es → step s = .next { s with script := es })

/-- R33, R34, R75, R266: writes of CTRL and STATUS are performed whether or not a command is in flight: CTRL takes IE
from bit 0, and ones in bits 1, 2, 3 of STATUS clear DONE, ERR with ERRCODE, and OVR. -/
def Obligations.ControlAndStatusWrites : Prop :=
  ∀ (s : State) (es : List PortEvent) (off : Nat) (w : Word),
    s.script = .write (s.config.base + off) .w32 w :: es → s.rst = false →
    (off = 0x008 → step s = .next { s with script := es, ie := w.getLsbD 0 }) ∧
    (off = 0x00C → step s = .next { s with
      script := es
      done := s.done && !w.getLsbD 1
      err := s.err && !w.getLsbD 2
      errcode := if w.getLsbD 2 then 0 else s.errcode
      ovr := s.ovr && !w.getLsbD 3 })

/-- R234, R266: while BUSY = 1 a write to CMD, an operand register, TRUNC, a KEY word or a MSG word is dropped and sets
OVR; the running command and everything else stay as they are. That it holds for the words at or beyond the
parameters too is the model's reading (log 10). -/
def Obligations.BusyLockDropsWrites : Prop :=
  ∀ (s : State) (es : List PortEvent) (off : Nat) (w : Word),
    s.script = .write (s.config.base + off) .w32 w :: es → s.rst = false → s.pending ≠ none →
    (off ∈ [0x010, 0x014, 0x018, 0x020, 0x024, 0x028, 0x02C, 0x030, 0x034, 0x038] ∨
      (0x100 ≤ off ∧ off < 0x240 ∧ off % 4 = 0)) →
    step s = .next { s with script := es, ovr := true }

/-- R73, R70: an access that is not 32 bits wide or not aligned faults, and so does one outside the window; none of them
is a step. The model's reading (log 11) is the fault outside the window, and which fault an access gives that is bad in
more ways than one: the window is checked first, then the width, then the alignment. -/
def Obligations.BadAccessesFault : Prop :=
  ∀ (s : State) (es : List PortEvent) (addr : Nat) (width : Width) (v : Word), s.rst = false →
    s.config.base % 4096 = 0 →
    (s.script = .read addr width :: es ∨ s.script = .write addr width v :: es) →
    (addr < s.config.base ∨ s.config.base + 4096 ≤ addr → step s = .fault .outsideWindow) ∧
    (s.config.base ≤ addr → addr < s.config.base + 4096 → width ≠ .w32 → step s = .fault .badWidth) ∧
    (s.config.base ≤ addr → addr < s.config.base + 4096 → width = .w32 → addr % 4 ≠ 0 →
      step s = .fault .misaligned)

/-! ### Reset and the interrupt -/

/-- R53: every register, PENDING and `irq` have their reset values in the reset state, and no KEY or MSG byte has been
written. -/
def Obligations.ResetStateHoldsTheResetValues : Prop :=
  (readReg .id State.reset).1 = 0x4F545031 ∧ (readReg .param State.reset).1 = 0x00400100 ∧
  State.reset.ie = false ∧ State.reset.statusWord = 0 ∧ State.reset.cmdLast = 0 ∧ State.reset.keylen = 0 ∧
  State.reset.msglen = 0 ∧ State.reset.ctr = 0 ∧ State.reset.epoch = 0 ∧ State.reset.interval = 30 ∧
  State.reset.trunc = 0 ∧ State.reset.offset = 0 ∧ State.reset.code = 0 ∧
  State.reset.digest = Vector.replicate 20 0 ∧ (∀ a, State.reset.key.get? a = none) ∧
  (∀ a, State.reset.msg.get? a = none) ∧ State.reset.pending = none ∧ State.reset.irq = false

/-- R260: asserting `rst` gives every piece of state its reset value from any state; a command in flight is abandoned
and its results are not committed. While it is asserted a host access has no step (log 5). -/
def Obligations.RstGivesTheResetValues : Prop :=
  (∀ (s : State) (es : List PortEvent), s.script = .rst true :: es →
    step s = .next { State.reset with
      config := s.config, rst := true, script := es, rdata := s.rdata, draws := s.draws }) ∧
  (∀ (s : State) (es : List PortEvent), s.script = .rst false :: es →
    step s = .next { s with script := es, rst := false }) ∧
  (∀ (s : State) (es : List PortEvent) (addr : Nat) (width : Width) (v : Word), s.rst = true →
    (s.script = .read addr width :: es ∨ s.script = .write addr width v :: es) →
    step s = .refused .accessDuringReset)

/-- R48: `irq` is IE and (DONE or ERR); it is 0 while BUSY = 1 in every state that keeps the invariant of STATUS, and
OVR does not drive it. -/
def Obligations.IrqIsEnableAndDoneOrErr : Prop :=
  (∀ s : State, s.irq = (s.ie && (s.done || s.err))) ∧
  (∀ s : State, StatusOk s → s.busy = true → s.irq = false) ∧
  (∀ (s : State) (b : Bool), ({ s with ovr := b } : State).irq = s.irq)

/-! ### Invariants and rules of the whole machine -/

/-- R53: the reset state meets the invariant. -/
def Obligations.InvariantAtReset : Prop := Inv State.reset

/-- R34, R45 to R47, R235, R260: every step keeps the invariant: the rules of STATUS, the canonical form and bounds of
the buffers, that a pending command's operands still pass its checks, and that state is at its reset values while
`rst` is asserted. -/
def Obligations.StepKeepsTheInvariant : Prop :=
  ∀ s t : State, Inv s → step s = .next t → Inv t

/-- R47, R266: until the completion or a reset, no step changes an operand, a buffer or a result of the command in
flight. -/
def Obligations.OperandsHoldUntilCompletion : Prop :=
  ∀ s t : State, s.pending ≠ none → t.pending = s.pending → step s = .next t → SameRegisters { s with ie := t.ie } t

/-- R38 to R44, R32: unless `rst` is asserted, CODE, OFFSET and DIGEST change only at the completion of a command that
writes them, CTR only at that of TSTEP or TOTP or at a host write of CTR_HI or CTR_LO to an idle block, and EPOCH,
INTERVAL, KEYLEN and KEY at no step while a command is in flight, its completion included; the parameters never change. -/
def Obligations.ResultsChangeOnlyAtCompletion : Prop :=
  ∀ s t : State, step s = .next t → t.config = s.config ∧ ((∀ es, s.script ≠ .rst true :: es) →
    (t.code ≠ s.code → CompletionTurn s ∧ t.pending = none ∧
      ∃ d, s.pending = some (.modred d) ∨ s.pending = some (.hotp d) ∨ s.pending = some (.totp d)) ∧
    (t.offset ≠ s.offset → CompletionTurn s ∧ t.pending = none ∧
      (s.pending = some .trunc ∨ ∃ d, s.pending = some (.hotp d) ∨ s.pending = some (.totp d))) ∧
    (t.digest ≠ s.digest → CompletionTurn s ∧ t.pending = none ∧
      (s.pending = some .hmac ∨ ∃ d, s.pending = some (.hotp d) ∨ s.pending = some (.totp d))) ∧
    (t.ctr ≠ s.ctr →
      (CompletionTurn s ∧ t.pending = none ∧ (s.pending = some .tstep ∨ ∃ d, s.pending = some (.totp d))) ∨
      (s.pending = none ∧ ∃ w es, s.script = .write (s.config.base + 0x020) .w32 w :: es ∨
        s.script = .write (s.config.base + 0x024) .w32 w :: es)) ∧
    (s.pending ≠ none → t.epoch = s.epoch ∧ t.interval = s.interval ∧ t.keylen = s.keylen ∧ t.key = s.key))

/-! ### Runs -/

/-- R265, R271: a run that takes one step more than the script has events, and meets no fault or refusal, is over: no
access is left and nothing is pending. It rests on the model's form of fairness (log 3). -/
def Obligations.RunsEndWithNothingPending : Prop :=
  ∀ s t : State, run (s.script.length + 1) s = .next t → Final t

/-- R73, R235, R260: a host that makes only aligned 32-bit accesses in the window, and none during reset, never meets a
fault or a refusal, however long the run. -/
def Obligations.WellBehavedHostsNeverFault : Prop :=
  ∀ (s : State) (n : Nat), WellBehaved s.config s.rst s.script → ∃ t, run n s = .next t

/-- R78: ENC_CTR and then reads of MSG0 and MSG1 show the two halves of CTR. -/
def Obligations.EncodedCounterReadsAsItsHalves : Prop :=
  ∀ s : State, s.config.Legal → s.rst = false → s.pending = none →
    ∃ t u, run 3 { s with script := commandEvents s.config .encCtr ++ [memRead s.config 0x200] } = .next t ∧
      t.rdata = some (s.ctr.extractLsb' 32 32) ∧
      run 4 { s with script := commandEvents s.config .encCtr ++
        [memRead s.config 0x200, memRead s.config 0x204] } = .next u ∧
      u.rdata = some (s.ctr.extractLsb' 0 32) ∧ u.msglen = 8

/-- R111: the events of `ldkey` load the bytes of the string into KEY from byte 0 on and their count into KEYLEN, and
change no other register or buffer. -/
def Obligations.LdkeyLoadsTheKey : Prop :=
  ∀ (s : State) (bs : List Byte) (es : List PortEvent), s.config.Legal → s.rst = false → s.pending = none →
    (AsmLine.ldkey bs).assemble s.config = some es → s.script = es →
    ∃ t, run es.length s = .next t ∧ t = { s with script := [], key := t.key, keylen := t.keylen } ∧
      t.keylen.toNat = bs.length ∧ t.key.Holds bs
end

