-- ==== Sys2Proof/Laws/Bytes.lean ====
section
/-! SUPPORT. The laws of the big-endian conversions (R11), the halves of 64-bit registers (R77), and the lengths of the
byte sequences the units handle (R130, R141, R151). -/

namespace Sys2Proof.Machine

@[simp] theorem beBytes_length (n v : Nat) : (beBytes n v).length = n := by simp [beBytes]

@[simp] theorem beBytes_getElem (n v i : Nat) (h : i < (beBytes n v).length) :
    (beBytes n v)[i] = BitVec.ofNat 8 (v >>> (8 * (n - 1 - i))) := by simp [beBytes]

@[simp] theorem wordBytes_length (w : Word) : (wordBytes w).length = 4 := by simp [wordBytes]

@[simp] theorem encodeCounter_length (c : BitVec 64) : (encodeCounter c).length = 8 := by simp [encodeCounter]

theorem beValue_nil : beValue [] = 0 := rfl

theorem beValue_concat (bs : List Byte) (b : Byte) : beValue (bs ++ [b]) = beValue bs * 256 + b.toNat := by
  simp [beValue]

/-- The value of four bytes. -/
theorem beValue_four (a b c d : Byte) :
    beValue [a, b, c, d] = ((a.toNat * 256 + b.toNat) * 256 + c.toNat) * 256 + d.toNat := by
  simp [beValue]

/-- The last byte of `be_bytes` is the value's low byte, and the bytes before it are those of the rest. -/
theorem beBytes_succ (n v : Nat) : beBytes (n + 1) v = beBytes n (v >>> 8) ++ [BitVec.ofNat 8 v] := by
  refine List.ext_getElem (by simp) fun i h1 h2 => ?_
  simp only [beBytes_length] at h1
  by_cases hi : i < n
  · rw [List.getElem_append_left (by simpa using hi)]
    simp only [beBytes_getElem]
    rw [← Nat.shiftRight_add, show 8 + 8 * (n - 1 - i) = 8 * (n + 1 - 1 - i) by omega]
  · obtain rfl : i = n := by omega
    simp

/-- `be_value` undoes `be_bytes` on the numbers that fit. -/
theorem beValue_beBytes (n : Nat) : ∀ v, v < 256 ^ n → beValue (beBytes n v) = v := by
  induction n with
  | zero => intro v h; simp at h; simp [beBytes, beValue, h]
  | succ n ih =>
    intro v h
    have hs : v >>> 8 < 256 ^ n := by
      rw [Nat.shiftRight_eq_div_pow]
      exact Nat.div_lt_of_lt_mul (by rw [pow_succ] at h; omega)
    rw [beBytes_succ, beValue_concat, ih _ hs, Nat.shiftRight_eq_div_pow]
    simp
    omega

/-- The value of a byte sequence fits its bytes. -/
theorem beValue_lt (bs : List Byte) : beValue bs < 256 ^ bs.length := by
  induction bs using List.reverseRecOn with
  | nil => simp [beValue]
  | append_singleton bs b ih =>
    have := b.isLt
    rw [beValue_concat, List.length_append, List.length_singleton, pow_succ]
    omega

/-- `be_bytes` undoes `be_value`. -/
theorem beBytes_beValue (bs : List Byte) : beBytes bs.length (beValue bs) = bs := by
  induction bs using List.reverseRecOn with
  | nil => simp [beBytes]
  | append_singleton bs b ih =>
    have hb := b.isLt
    have hs : beValue (bs ++ [b]) >>> 8 = beValue bs := by
      rw [beValue_concat, Nat.shiftRight_eq_div_pow]
      omega
    have hl : BitVec.ofNat 8 (beValue (bs ++ [b])) = b := by
      apply BitVec.eq_of_toNat_eq
      rw [beValue_concat, BitVec.toNat_ofNat]
      omega
    rw [List.length_append, List.length_singleton, beBytes_succ, hs, hl, ih]

/-- A word is the word of its bytes. -/
@[simp] theorem wordOfBytes_wordBytes (w : Word) : wordOfBytes (wordBytes w) = w := by
  rw [wordOfBytes, wordBytes, beValue_beBytes _ _ (lt_of_lt_of_eq w.isLt (by norm_num))]
  simp

/-- Four bytes are the bytes of their word. -/
theorem wordBytes_wordOfBytes (bs : List Byte) (h : bs.length = 4) : wordBytes (wordOfBytes bs) = bs := by
  have hlt := beValue_lt bs
  rw [h] at hlt
  rw [wordBytes, wordOfBytes, BitVec.toNat_ofNat, Nat.mod_eq_of_lt (by simpa using hlt), ← h, beBytes_beValue]

@[simp] theorem hiHalf_joinHalves (h l : Word) : hiHalf (joinHalves h l) = h := by
  simp only [hiHalf, joinHalves]
  ext i hi
  simp [hi, ← BitVec.getLsbD_eq_getElem, show 32 + i < 64 by omega, show i < 64 by omega]

@[simp] theorem loHalf_joinHalves (h l : Word) : loHalf (joinHalves h l) = l := by
  simp only [loHalf, joinHalves]
  ext i hi
  simp [hi, ← BitVec.getLsbD_eq_getElem]
  omega

/-- A 64-bit register is its two halves. -/
@[simp] theorem joinHalves_halves (v : BitVec 64) : joinHalves (hiHalf v) (loHalf v) = v := by
  simp only [hiHalf, loHalf, joinHalves]
  ext i hi
  simp [hi, ← BitVec.getLsbD_eq_getElem]
  by_cases h : i < 32
  · simp [h]
  · simp [h, show i - 32 < 32 by omega, show 32 + (i - 32) = i by omega, show i - 32 < 64 by omega]

@[simp] theorem hiHalf_setHiHalf (v : BitVec 64) (w : Word) : hiHalf (setHiHalf v w) = w := by simp [setHiHalf]

@[simp] theorem loHalf_setHiHalf (v : BitVec 64) (w : Word) : loHalf (setHiHalf v w) = loHalf v := by simp [setHiHalf]

@[simp] theorem loHalf_setLoHalf (v : BitVec 64) (w : Word) : loHalf (setLoHalf v w) = w := by simp [setLoHalf]

@[simp] theorem hiHalf_setLoHalf (v : BitVec 64) (w : Word) : hiHalf (setLoHalf v w) = hiHalf v := by simp [setLoHalf]

@[simp] theorem hmacShortKey_of_le (k : List Byte) (h : k.length ≤ 64) : hmacShortKey k = k := by
  simp [hmacShortKey, hmacBlockBytes, Nat.not_lt.mpr h]

@[simp] theorem hmacShortKey_of_gt (k : List Byte) (h : 64 < k.length) : hmacShortKey k = (sha1 k).toList := by
  simp [hmacShortKey, hmacBlockBytes, h]

theorem hmacShortKey_length_le (k : List Byte) : (hmacShortKey k).length ≤ 64 := by
  by_cases h : 64 < k.length
  · simp [h]
  · simp [Nat.not_lt.mp h]

/-- K0 is always one block. -/
@[simp] theorem hmacBlockKey_length (k : List Byte) : (hmacBlockKey k).length = 64 := by
  have := hmacShortKey_length_le k
  simp [hmacBlockKey, hmacBlockBytes]
  omega

/-! ### Halves as numbers -/

theorem hiHalf_toNat (v : BitVec 64) : (hiHalf v).toNat = v.toNat / 2 ^ 32 := by
  have := v.isLt
  simp only [hiHalf, BitVec.extractLsb'_toNat, Nat.shiftRight_eq_div_pow]
  omega

theorem loHalf_toNat (v : BitVec 64) : (loHalf v).toNat = v.toNat % 2 ^ 32 := by simp [loHalf]

theorem joinHalves_toNat (h l : Word) : (joinHalves h l).toNat = h.toNat * 2 ^ 32 + l.toNat := by
  have hh := h.isLt
  have hl := l.isLt
  simp only [joinHalves, BitVec.toNat_or, BitVec.toNat_shiftLeft, BitVec.toNat_setWidth]
  rw [Nat.mod_eq_of_lt (show h.toNat < 2 ^ 64 by omega), Nat.mod_eq_of_lt (show l.toNat < 2 ^ 64 by omega),
    Nat.mod_eq_of_lt (by rw [Nat.shiftLeft_eq]; omega), Nat.shiftLeft_eq, Nat.mul_comm,
    Nat.two_pow_add_eq_or_of_lt (by omega)]

end Sys2Proof.Machine
end

