-- ==== Sys2Proof/Laws/Memory.lean ====
section
/-! SUPPORT. The laws of the byte buffers: a read after a write, the canonical form, and what reading a range gives. -/

namespace Sys2Proof.Machine

namespace Memory

@[simp] theorem get?_nil (a : Nat) : Memory.get? [] a = none := rfl

theorem get?_cons (k : Nat) (b : Byte) (m : Memory) (a : Nat) :
    Memory.get? ((k, b) :: m) a = if k = a then some b else Memory.get? m a := rfl

@[simp] theorem get?_set_self (m : Memory) (a : Nat) (b : Byte) : (m.set a b).get? a = some b := by
  induction m with
  | nil => simp [Memory.set, get?_cons]
  | cons x rest ih =>
    obtain ⟨k, c⟩ := x
    simp only [Memory.set]
    split
    · simp [get?_cons]
    · split
      · simp [get?_cons]
      · rename_i h1 h2
        have hk : k ≠ a := fun h => h2 h.symm
        simp only [get?_cons, hk, if_false, ih]

theorem get?_set_of_ne (m : Memory) {a a' : Nat} (b : Byte) (h : a' ≠ a) : (m.set a b).get? a' = m.get? a' := by
  induction m with
  | nil => simp [Memory.set, get?_cons, Ne.symm h]
  | cons x rest ih =>
    obtain ⟨k, c⟩ := x
    simp only [Memory.set]
    split
    · simp [get?_cons, Ne.symm h]
    · split
      · rename_i h2
        subst h2
        simp [get?_cons, Ne.symm h]
      · simp [get?_cons, ih]

/-- Where the indexes of a written buffer lie. -/
theorem forall_set {p : Nat → Prop} (m : Memory) {a : Nat} (b : Byte) (ha : p a) (hm : ∀ x ∈ m, p x.1) :
    ∀ x ∈ m.set a b, p x.1 := by
  induction m with
  | nil => simpa [Memory.set] using ha
  | cons x rest ih =>
    obtain ⟨k, c⟩ := x
    have hk : p k := hm (k, c) (by simp)
    have hr : ∀ x ∈ rest, p x.1 := fun x hx => hm x (by simp [hx])
    simp only [Memory.set]
    split
    · simpa using ⟨ha, hk, fun a b hx => hr (a, b) hx⟩
    · split
      · simpa using ⟨ha, fun a b hx => hr (a, b) hx⟩
      · simpa using ⟨hk, fun a b hx => ih hr (a, b) hx⟩

/-- A write keeps the canonical form. -/
theorem wf_set (m : Memory) (a : Nat) (b : Byte) (h : m.wf) : (m.set a b).wf := by
  induction m with
  | nil => simp [Memory.set]
  | cons x rest ih =>
    obtain ⟨k, c⟩ := x
    have hk := (List.pairwise_cons.mp h).1
    have hr := (List.pairwise_cons.mp h).2
    simp only [Memory.set]
    split
    · rename_i hlt
      refine List.pairwise_cons.mpr ⟨?_, h⟩
      intro y hy
      rcases List.mem_cons.mp hy with rfl | hy
      · exact hlt
      · exact lt_trans hlt (hk y hy)
    · split
      · rename_i heq
        subst heq
        exact List.pairwise_cons.mpr ⟨hk, hr⟩
      · rename_i h1 h2
        exact List.pairwise_cons.mpr ⟨forall_set (p := fun j => k < j) rest b (by omega) hk, ih hr⟩

theorem setBytes_nil (m : Memory) (a : Nat) : m.setBytes a [] = m := rfl

theorem setBytes_cons (m : Memory) (a : Nat) (b : Byte) (bs : List Byte) :
    m.setBytes a (b :: bs) = (m.set a b).setBytes (a + 1) bs := rfl

/-- A write of a range leaves every byte outside it as it was. -/
theorem get?_setBytes_of_outside (bs : List Byte) : ∀ (m : Memory) (a a' : Nat), a' < a ∨ a + bs.length ≤ a' →
    (m.setBytes a bs).get? a' = m.get? a' := by
  induction bs with
  | nil => intro m a a' _; rfl
  | cons b bs ih =>
    intro m a a' h
    simp only [List.length_cons] at h
    rw [setBytes_cons, ih _ _ _ (by omega), get?_set_of_ne _ _ (by omega)]

/-- A write of a range puts byte j of the bytes at index a + j. -/
theorem get?_setBytes_of_inside (bs : List Byte) : ∀ (m : Memory) (a j : Nat), j < bs.length →
    (m.setBytes a bs).get? (a + j) = bs[j]? := by
  induction bs with
  | nil => intro m a j h; simp at h
  | cons b bs ih =>
    intro m a j h
    rw [setBytes_cons]
    cases j with
    | zero => rw [get?_setBytes_of_outside _ _ _ _ (by omega)]; simp
    | succ j =>
      rw [show a + (j + 1) = a + 1 + j by omega, ih _ _ _ (by simpa using h)]
      simp

/-- A write of a range keeps the canonical form. -/
theorem wf_setBytes (bs : List Byte) : ∀ (m : Memory) (a : Nat), m.wf → (m.setBytes a bs).wf := by
  induction bs with
  | nil => intro m a h; exact h
  | cons b bs ih => intro m a h; exact ih _ _ (wf_set m a b h)

/-- A write of a range below a bound keeps a buffer below it. -/
theorem lt_setBytes (bs : List Byte) (n : Nat) : ∀ (m : Memory) (a : Nat), a + bs.length ≤ n →
    (∀ x ∈ m, x.1 < n) → ∀ x ∈ m.setBytes a bs, x.1 < n := by
  induction bs with
  | nil => intro m a _ h; exact h
  | cons b bs ih =>
    intro m a ha h
    simp only [List.length_cons] at ha
    exact ih _ _ (by omega) (forall_set (p := (· < n)) m b (by omega) h)

theorem readBytes_zero (m : Memory) (a k : Nat) : m.readBytes a 0 k = ([], k) := rfl

theorem readBytes_succ_of_some {m : Memory} {a : Nat} {b : Byte} (n k : Nat) (h : m.get? a = some b) :
    m.readBytes a (n + 1) k = (b :: (m.readBytes (a + 1) n k).1, (m.readBytes (a + 1) n k).2) := by
  simp [Memory.readBytes, h]

theorem readBytes_succ_of_none {m : Memory} {a : Nat} (n k : Nat) (h : m.get? a = none) :
    m.readBytes a (n + 1) k =
      (Config.freeByte k :: (m.readBytes (a + 1) n (k + 1)).1, (m.readBytes (a + 1) n (k + 1)).2) := by
  simp [Memory.readBytes, h]

/-- A range read always gives as many bytes as it reads. -/
@[simp] theorem readBytes_length (m : Memory) : ∀ (n a k : Nat), (m.readBytes a n k).1.length = n := by
  intro n
  induction n with
  | zero => intro a k; rfl
  | succ n ih =>
    intro a k
    cases h : m.get? a with
    | none => simp [readBytes_succ_of_none n k h, ih]
    | some b => simp [readBytes_succ_of_some n k h, ih]

/-- The draw count never goes back. -/
theorem le_readBytes_draws (m : Memory) : ∀ (n a k : Nat), k ≤ (m.readBytes a n k).2 := by
  intro n
  induction n with
  | zero => intro a k; exact le_refl k
  | succ n ih =>
    intro a k
    cases h : m.get? a with
    | none =>
      rw [readBytes_succ_of_none n k h]
      exact le_trans (Nat.le_succ k) (ih (a + 1) (k + 1))
    | some b => rw [readBytes_succ_of_some n k h]; exact ih (a + 1) k

/-- Reading a range whose bytes are all written gives those bytes and draws nothing. -/
theorem readBytes_of_written (m : Memory) : ∀ (bs : List Byte) (a k : Nat),
    (∀ j (h : j < bs.length), m.get? (a + j) = some bs[j]) → m.readBytes a bs.length k = (bs, k) := by
  intro bs
  induction bs with
  | nil => intro a k _; rfl
  | cons b bs ih =>
    intro a k h
    have h0 : m.get? a = some b := h 0 (Nat.succ_pos _)
    have hr : m.readBytes (a + 1) bs.length k = (bs, k) := by
      refine ih (a + 1) k fun j hj => ?_
      rw [show a + 1 + j = a + (j + 1) by omega]
      exact h (j + 1) (Nat.succ_lt_succ hj)
    rw [List.length_cons, readBytes_succ_of_some _ _ h0, hr]

/-- A range just written reads back. -/
theorem readBytes_setBytes_self (m : Memory) (a k : Nat) (bs : List Byte) :
    (m.setBytes a bs).readBytes a bs.length k = (bs, k) := by
  refine readBytes_of_written _ bs a k fun j hj => ?_
  rw [get?_setBytes_of_inside bs m a j hj, List.getElem?_eq_getElem hj]

/-- Two buffers that agree on a range read the same there. -/
theorem readBytes_congr {m m' : Memory} : ∀ (n a k : Nat), (∀ j, j < n → m.get? (a + j) = m'.get? (a + j)) →
    m.readBytes a n k = m'.readBytes a n k := by
  intro n
  induction n with
  | zero => intro a k _; rfl
  | succ n ih =>
    intro a k h
    have h0 : m.get? a = m'.get? a := by simpa using h 0 (by omega)
    have hr : ∀ k, m.readBytes (a + 1) n k = m'.readBytes (a + 1) n k := fun k =>
      ih (a + 1) k fun j hj => by
        have := h (j + 1) (by omega)
        rwa [show a + (j + 1) = a + 1 + j by omega] at this
    cases hm : m.get? a with
    | none => rw [readBytes_succ_of_none n k hm, readBytes_succ_of_none n k (h0 ▸ hm), hr]
    | some b => rw [readBytes_succ_of_some n k hm, readBytes_succ_of_some n k (h0 ▸ hm), hr]

end Memory

end Sys2Proof.Machine
end

