-- ==== Sys2Proof/Laws/State.lean ====
section
/-! SUPPORT. One lemma per field for each named update of the state (Machine/Flags.lean, Machine/Ops.lean, Machine/Port.lean),
true by rfl, so that no later proof unfolds a record update. -/

namespace Sys2Proof.Machine

/-! ### `State.clearDone` -/

@[simp] theorem State.clearDone_config (s : State) : (s.clearDone).config = s.config := rfl
@[simp] theorem State.clearDone_ie (s : State) : (s.clearDone).ie = s.ie := rfl
@[simp] theorem State.clearDone_pending (s : State) : (s.clearDone).pending = s.pending := rfl
@[simp] theorem State.clearDone_done (s : State) : (s.clearDone).done = false := rfl
@[simp] theorem State.clearDone_err (s : State) : (s.clearDone).err = s.err := rfl
@[simp] theorem State.clearDone_ovr (s : State) : (s.clearDone).ovr = s.ovr := rfl
@[simp] theorem State.clearDone_errcode (s : State) : (s.clearDone).errcode = s.errcode := rfl
@[simp] theorem State.clearDone_cmdLast (s : State) : (s.clearDone).cmdLast = s.cmdLast := rfl
@[simp] theorem State.clearDone_keylen (s : State) : (s.clearDone).keylen = s.keylen := rfl
@[simp] theorem State.clearDone_msglen (s : State) : (s.clearDone).msglen = s.msglen := rfl
@[simp] theorem State.clearDone_ctr (s : State) : (s.clearDone).ctr = s.ctr := rfl
@[simp] theorem State.clearDone_epoch (s : State) : (s.clearDone).epoch = s.epoch := rfl
@[simp] theorem State.clearDone_interval (s : State) : (s.clearDone).interval = s.interval := rfl
@[simp] theorem State.clearDone_trunc (s : State) : (s.clearDone).trunc = s.trunc := rfl
@[simp] theorem State.clearDone_offset (s : State) : (s.clearDone).offset = s.offset := rfl
@[simp] theorem State.clearDone_code (s : State) : (s.clearDone).code = s.code := rfl
@[simp] theorem State.clearDone_digest (s : State) : (s.clearDone).digest = s.digest := rfl
@[simp] theorem State.clearDone_key (s : State) : (s.clearDone).key = s.key := rfl
@[simp] theorem State.clearDone_msg (s : State) : (s.clearDone).msg = s.msg := rfl
@[simp] theorem State.clearDone_rst (s : State) : (s.clearDone).rst = s.rst := rfl
@[simp] theorem State.clearDone_script (s : State) : (s.clearDone).script = s.script := rfl
@[simp] theorem State.clearDone_rdata (s : State) : (s.clearDone).rdata = s.rdata := rfl
@[simp] theorem State.clearDone_draws (s : State) : (s.clearDone).draws = s.draws := rfl

/-! ### `State.clearErr` -/

@[simp] theorem State.clearErr_config (s : State) : (s.clearErr).config = s.config := rfl
@[simp] theorem State.clearErr_ie (s : State) : (s.clearErr).ie = s.ie := rfl
@[simp] theorem State.clearErr_pending (s : State) : (s.clearErr).pending = s.pending := rfl
@[simp] theorem State.clearErr_done (s : State) : (s.clearErr).done = s.done := rfl
@[simp] theorem State.clearErr_err (s : State) : (s.clearErr).err = false := rfl
@[simp] theorem State.clearErr_ovr (s : State) : (s.clearErr).ovr = s.ovr := rfl
@[simp] theorem State.clearErr_errcode (s : State) : (s.clearErr).errcode = 0 := rfl
@[simp] theorem State.clearErr_cmdLast (s : State) : (s.clearErr).cmdLast = s.cmdLast := rfl
@[simp] theorem State.clearErr_keylen (s : State) : (s.clearErr).keylen = s.keylen := rfl
@[simp] theorem State.clearErr_msglen (s : State) : (s.clearErr).msglen = s.msglen := rfl
@[simp] theorem State.clearErr_ctr (s : State) : (s.clearErr).ctr = s.ctr := rfl
@[simp] theorem State.clearErr_epoch (s : State) : (s.clearErr).epoch = s.epoch := rfl
@[simp] theorem State.clearErr_interval (s : State) : (s.clearErr).interval = s.interval := rfl
@[simp] theorem State.clearErr_trunc (s : State) : (s.clearErr).trunc = s.trunc := rfl
@[simp] theorem State.clearErr_offset (s : State) : (s.clearErr).offset = s.offset := rfl
@[simp] theorem State.clearErr_code (s : State) : (s.clearErr).code = s.code := rfl
@[simp] theorem State.clearErr_digest (s : State) : (s.clearErr).digest = s.digest := rfl
@[simp] theorem State.clearErr_key (s : State) : (s.clearErr).key = s.key := rfl
@[simp] theorem State.clearErr_msg (s : State) : (s.clearErr).msg = s.msg := rfl
@[simp] theorem State.clearErr_rst (s : State) : (s.clearErr).rst = s.rst := rfl
@[simp] theorem State.clearErr_script (s : State) : (s.clearErr).script = s.script := rfl
@[simp] theorem State.clearErr_rdata (s : State) : (s.clearErr).rdata = s.rdata := rfl
@[simp] theorem State.clearErr_draws (s : State) : (s.clearErr).draws = s.draws := rfl

/-! ### `State.clearOvr` -/

@[simp] theorem State.clearOvr_config (s : State) : (s.clearOvr).config = s.config := rfl
@[simp] theorem State.clearOvr_ie (s : State) : (s.clearOvr).ie = s.ie := rfl
@[simp] theorem State.clearOvr_pending (s : State) : (s.clearOvr).pending = s.pending := rfl
@[simp] theorem State.clearOvr_done (s : State) : (s.clearOvr).done = s.done := rfl
@[simp] theorem State.clearOvr_err (s : State) : (s.clearOvr).err = s.err := rfl
@[simp] theorem State.clearOvr_ovr (s : State) : (s.clearOvr).ovr = false := rfl
@[simp] theorem State.clearOvr_errcode (s : State) : (s.clearOvr).errcode = s.errcode := rfl
@[simp] theorem State.clearOvr_cmdLast (s : State) : (s.clearOvr).cmdLast = s.cmdLast := rfl
@[simp] theorem State.clearOvr_keylen (s : State) : (s.clearOvr).keylen = s.keylen := rfl
@[simp] theorem State.clearOvr_msglen (s : State) : (s.clearOvr).msglen = s.msglen := rfl
@[simp] theorem State.clearOvr_ctr (s : State) : (s.clearOvr).ctr = s.ctr := rfl
@[simp] theorem State.clearOvr_epoch (s : State) : (s.clearOvr).epoch = s.epoch := rfl
@[simp] theorem State.clearOvr_interval (s : State) : (s.clearOvr).interval = s.interval := rfl
@[simp] theorem State.clearOvr_trunc (s : State) : (s.clearOvr).trunc = s.trunc := rfl
@[simp] theorem State.clearOvr_offset (s : State) : (s.clearOvr).offset = s.offset := rfl
@[simp] theorem State.clearOvr_code (s : State) : (s.clearOvr).code = s.code := rfl
@[simp] theorem State.clearOvr_digest (s : State) : (s.clearOvr).digest = s.digest := rfl
@[simp] theorem State.clearOvr_key (s : State) : (s.clearOvr).key = s.key := rfl
@[simp] theorem State.clearOvr_msg (s : State) : (s.clearOvr).msg = s.msg := rfl
@[simp] theorem State.clearOvr_rst (s : State) : (s.clearOvr).rst = s.rst := rfl
@[simp] theorem State.clearOvr_script (s : State) : (s.clearOvr).script = s.script := rfl
@[simp] theorem State.clearOvr_rdata (s : State) : (s.clearOvr).rdata = s.rdata := rfl
@[simp] theorem State.clearOvr_draws (s : State) : (s.clearOvr).draws = s.draws := rfl

/-! ### `State.storeEncoded` -/

@[simp] theorem State.storeEncoded_config (s : State) (m : List Byte) : (s.storeEncoded m).config = s.config := rfl
@[simp] theorem State.storeEncoded_ie (s : State) (m : List Byte) : (s.storeEncoded m).ie = s.ie := rfl
@[simp] theorem State.storeEncoded_pending (s : State) (m : List Byte) : (s.storeEncoded m).pending = s.pending := rfl
@[simp] theorem State.storeEncoded_done (s : State) (m : List Byte) : (s.storeEncoded m).done = s.done := rfl
@[simp] theorem State.storeEncoded_err (s : State) (m : List Byte) : (s.storeEncoded m).err = s.err := rfl
@[simp] theorem State.storeEncoded_ovr (s : State) (m : List Byte) : (s.storeEncoded m).ovr = s.ovr := rfl
@[simp] theorem State.storeEncoded_errcode (s : State) (m : List Byte) : (s.storeEncoded m).errcode = s.errcode := rfl
@[simp] theorem State.storeEncoded_cmdLast (s : State) (m : List Byte) : (s.storeEncoded m).cmdLast = s.cmdLast := rfl
@[simp] theorem State.storeEncoded_keylen (s : State) (m : List Byte) : (s.storeEncoded m).keylen = s.keylen := rfl
@[simp] theorem State.storeEncoded_msglen (s : State) (m : List Byte) : (s.storeEncoded m).msglen = 8 := rfl
@[simp] theorem State.storeEncoded_ctr (s : State) (m : List Byte) : (s.storeEncoded m).ctr = s.ctr := rfl
@[simp] theorem State.storeEncoded_epoch (s : State) (m : List Byte) : (s.storeEncoded m).epoch = s.epoch := rfl
@[simp] theorem State.storeEncoded_interval (s : State) (m : List Byte) : (s.storeEncoded m).interval = s.interval := rfl
@[simp] theorem State.storeEncoded_trunc (s : State) (m : List Byte) : (s.storeEncoded m).trunc = s.trunc := rfl
@[simp] theorem State.storeEncoded_offset (s : State) (m : List Byte) : (s.storeEncoded m).offset = s.offset := rfl
@[simp] theorem State.storeEncoded_code (s : State) (m : List Byte) : (s.storeEncoded m).code = s.code := rfl
@[simp] theorem State.storeEncoded_digest (s : State) (m : List Byte) : (s.storeEncoded m).digest = s.digest := rfl
@[simp] theorem State.storeEncoded_key (s : State) (m : List Byte) : (s.storeEncoded m).key = s.key := rfl
@[simp] theorem State.storeEncoded_msg (s : State) (m : List Byte) : (s.storeEncoded m).msg = s.msg.setBytes 0 m := rfl
@[simp] theorem State.storeEncoded_rst (s : State) (m : List Byte) : (s.storeEncoded m).rst = s.rst := rfl
@[simp] theorem State.storeEncoded_script (s : State) (m : List Byte) : (s.storeEncoded m).script = s.script := rfl
@[simp] theorem State.storeEncoded_rdata (s : State) (m : List Byte) : (s.storeEncoded m).rdata = s.rdata := rfl
@[simp] theorem State.storeEncoded_draws (s : State) (m : List Byte) : (s.storeEncoded m).draws = s.draws := rfl

/-! ### `State.storeDigest` -/

@[simp] theorem State.storeDigest_config (s : State) (dg : Digest) (n : Nat) : (s.storeDigest dg n).config = s.config := rfl
@[simp] theorem State.storeDigest_ie (s : State) (dg : Digest) (n : Nat) : (s.storeDigest dg n).ie = s.ie := rfl
@[simp] theorem State.storeDigest_pending (s : State) (dg : Digest) (n : Nat) : (s.storeDigest dg n).pending = s.pending := rfl
@[simp] theorem State.storeDigest_done (s : State) (dg : Digest) (n : Nat) : (s.storeDigest dg n).done = s.done := rfl
@[simp] theorem State.storeDigest_err (s : State) (dg : Digest) (n : Nat) : (s.storeDigest dg n).err = s.err := rfl
@[simp] theorem State.storeDigest_ovr (s : State) (dg : Digest) (n : Nat) : (s.storeDigest dg n).ovr = s.ovr := rfl
@[simp] theorem State.storeDigest_errcode (s : State) (dg : Digest) (n : Nat) : (s.storeDigest dg n).errcode = s.errcode := rfl
@[simp] theorem State.storeDigest_cmdLast (s : State) (dg : Digest) (n : Nat) : (s.storeDigest dg n).cmdLast = s.cmdLast := rfl
@[simp] theorem State.storeDigest_keylen (s : State) (dg : Digest) (n : Nat) : (s.storeDigest dg n).keylen = s.keylen := rfl
@[simp] theorem State.storeDigest_msglen (s : State) (dg : Digest) (n : Nat) : (s.storeDigest dg n).msglen = s.msglen := rfl
@[simp] theorem State.storeDigest_ctr (s : State) (dg : Digest) (n : Nat) : (s.storeDigest dg n).ctr = s.ctr := rfl
@[simp] theorem State.storeDigest_epoch (s : State) (dg : Digest) (n : Nat) : (s.storeDigest dg n).epoch = s.epoch := rfl
@[simp] theorem State.storeDigest_interval (s : State) (dg : Digest) (n : Nat) : (s.storeDigest dg n).interval = s.interval := rfl
@[simp] theorem State.storeDigest_trunc (s : State) (dg : Digest) (n : Nat) : (s.storeDigest dg n).trunc = s.trunc := rfl
@[simp] theorem State.storeDigest_offset (s : State) (dg : Digest) (n : Nat) : (s.storeDigest dg n).offset = s.offset := rfl
@[simp] theorem State.storeDigest_code (s : State) (dg : Digest) (n : Nat) : (s.storeDigest dg n).code = s.code := rfl
@[simp] theorem State.storeDigest_digest (s : State) (dg : Digest) (n : Nat) : (s.storeDigest dg n).digest = dg := rfl
@[simp] theorem State.storeDigest_key (s : State) (dg : Digest) (n : Nat) : (s.storeDigest dg n).key = s.key := rfl
@[simp] theorem State.storeDigest_msg (s : State) (dg : Digest) (n : Nat) : (s.storeDigest dg n).msg = s.msg := rfl
@[simp] theorem State.storeDigest_rst (s : State) (dg : Digest) (n : Nat) : (s.storeDigest dg n).rst = s.rst := rfl
@[simp] theorem State.storeDigest_script (s : State) (dg : Digest) (n : Nat) : (s.storeDigest dg n).script = s.script := rfl
@[simp] theorem State.storeDigest_rdata (s : State) (dg : Digest) (n : Nat) : (s.storeDigest dg n).rdata = s.rdata := rfl
@[simp] theorem State.storeDigest_draws (s : State) (dg : Digest) (n : Nat) : (s.storeDigest dg n).draws = n := rfl

/-! ### `State.storeWindow` -/

@[simp] theorem State.storeWindow_config (s : State) (o : BitVec 4) (v : Word) : (s.storeWindow o v).config = s.config := rfl
@[simp] theorem State.storeWindow_ie (s : State) (o : BitVec 4) (v : Word) : (s.storeWindow o v).ie = s.ie := rfl
@[simp] theorem State.storeWindow_pending (s : State) (o : BitVec 4) (v : Word) : (s.storeWindow o v).pending = s.pending := rfl
@[simp] theorem State.storeWindow_done (s : State) (o : BitVec 4) (v : Word) : (s.storeWindow o v).done = s.done := rfl
@[simp] theorem State.storeWindow_err (s : State) (o : BitVec 4) (v : Word) : (s.storeWindow o v).err = s.err := rfl
@[simp] theorem State.storeWindow_ovr (s : State) (o : BitVec 4) (v : Word) : (s.storeWindow o v).ovr = s.ovr := rfl
@[simp] theorem State.storeWindow_errcode (s : State) (o : BitVec 4) (v : Word) : (s.storeWindow o v).errcode = s.errcode := rfl
@[simp] theorem State.storeWindow_cmdLast (s : State) (o : BitVec 4) (v : Word) : (s.storeWindow o v).cmdLast = s.cmdLast := rfl
@[simp] theorem State.storeWindow_keylen (s : State) (o : BitVec 4) (v : Word) : (s.storeWindow o v).keylen = s.keylen := rfl
@[simp] theorem State.storeWindow_msglen (s : State) (o : BitVec 4) (v : Word) : (s.storeWindow o v).msglen = s.msglen := rfl
@[simp] theorem State.storeWindow_ctr (s : State) (o : BitVec 4) (v : Word) : (s.storeWindow o v).ctr = s.ctr := rfl
@[simp] theorem State.storeWindow_epoch (s : State) (o : BitVec 4) (v : Word) : (s.storeWindow o v).epoch = s.epoch := rfl
@[simp] theorem State.storeWindow_interval (s : State) (o : BitVec 4) (v : Word) : (s.storeWindow o v).interval = s.interval := rfl
@[simp] theorem State.storeWindow_trunc (s : State) (o : BitVec 4) (v : Word) : (s.storeWindow o v).trunc = v := rfl
@[simp] theorem State.storeWindow_offset (s : State) (o : BitVec 4) (v : Word) : (s.storeWindow o v).offset = o := rfl
@[simp] theorem State.storeWindow_code (s : State) (o : BitVec 4) (v : Word) : (s.storeWindow o v).code = s.code := rfl
@[simp] theorem State.storeWindow_digest (s : State) (o : BitVec 4) (v : Word) : (s.storeWindow o v).digest = s.digest := rfl
@[simp] theorem State.storeWindow_key (s : State) (o : BitVec 4) (v : Word) : (s.storeWindow o v).key = s.key := rfl
@[simp] theorem State.storeWindow_msg (s : State) (o : BitVec 4) (v : Word) : (s.storeWindow o v).msg = s.msg := rfl
@[simp] theorem State.storeWindow_rst (s : State) (o : BitVec 4) (v : Word) : (s.storeWindow o v).rst = s.rst := rfl
@[simp] theorem State.storeWindow_script (s : State) (o : BitVec 4) (v : Word) : (s.storeWindow o v).script = s.script := rfl
@[simp] theorem State.storeWindow_rdata (s : State) (o : BitVec 4) (v : Word) : (s.storeWindow o v).rdata = s.rdata := rfl
@[simp] theorem State.storeWindow_draws (s : State) (o : BitVec 4) (v : Word) : (s.storeWindow o v).draws = s.draws := rfl

/-! ### `State.storeCode` -/

@[simp] theorem State.storeCode_config (s : State) (v : Word) : (s.storeCode v).config = s.config := rfl
@[simp] theorem State.storeCode_ie (s : State) (v : Word) : (s.storeCode v).ie = s.ie := rfl
@[simp] theorem State.storeCode_pending (s : State) (v : Word) : (s.storeCode v).pending = s.pending := rfl
@[simp] theorem State.storeCode_done (s : State) (v : Word) : (s.storeCode v).done = s.done := rfl
@[simp] theorem State.storeCode_err (s : State) (v : Word) : (s.storeCode v).err = s.err := rfl
@[simp] theorem State.storeCode_ovr (s : State) (v : Word) : (s.storeCode v).ovr = s.ovr := rfl
@[simp] theorem State.storeCode_errcode (s : State) (v : Word) : (s.storeCode v).errcode = s.errcode := rfl
@[simp] theorem State.storeCode_cmdLast (s : State) (v : Word) : (s.storeCode v).cmdLast = s.cmdLast := rfl
@[simp] theorem State.storeCode_keylen (s : State) (v : Word) : (s.storeCode v).keylen = s.keylen := rfl
@[simp] theorem State.storeCode_msglen (s : State) (v : Word) : (s.storeCode v).msglen = s.msglen := rfl
@[simp] theorem State.storeCode_ctr (s : State) (v : Word) : (s.storeCode v).ctr = s.ctr := rfl
@[simp] theorem State.storeCode_epoch (s : State) (v : Word) : (s.storeCode v).epoch = s.epoch := rfl
@[simp] theorem State.storeCode_interval (s : State) (v : Word) : (s.storeCode v).interval = s.interval := rfl
@[simp] theorem State.storeCode_trunc (s : State) (v : Word) : (s.storeCode v).trunc = s.trunc := rfl
@[simp] theorem State.storeCode_offset (s : State) (v : Word) : (s.storeCode v).offset = s.offset := rfl
@[simp] theorem State.storeCode_code (s : State) (v : Word) : (s.storeCode v).code = v := rfl
@[simp] theorem State.storeCode_digest (s : State) (v : Word) : (s.storeCode v).digest = s.digest := rfl
@[simp] theorem State.storeCode_key (s : State) (v : Word) : (s.storeCode v).key = s.key := rfl
@[simp] theorem State.storeCode_msg (s : State) (v : Word) : (s.storeCode v).msg = s.msg := rfl
@[simp] theorem State.storeCode_rst (s : State) (v : Word) : (s.storeCode v).rst = s.rst := rfl
@[simp] theorem State.storeCode_script (s : State) (v : Word) : (s.storeCode v).script = s.script := rfl
@[simp] theorem State.storeCode_rdata (s : State) (v : Word) : (s.storeCode v).rdata = s.rdata := rfl
@[simp] theorem State.storeCode_draws (s : State) (v : Word) : (s.storeCode v).draws = s.draws := rfl

/-! ### `State.storeCtr` -/

@[simp] theorem State.storeCtr_config (s : State) (c : BitVec 64) : (s.storeCtr c).config = s.config := rfl
@[simp] theorem State.storeCtr_ie (s : State) (c : BitVec 64) : (s.storeCtr c).ie = s.ie := rfl
@[simp] theorem State.storeCtr_pending (s : State) (c : BitVec 64) : (s.storeCtr c).pending = s.pending := rfl
@[simp] theorem State.storeCtr_done (s : State) (c : BitVec 64) : (s.storeCtr c).done = s.done := rfl
@[simp] theorem State.storeCtr_err (s : State) (c : BitVec 64) : (s.storeCtr c).err = s.err := rfl
@[simp] theorem State.storeCtr_ovr (s : State) (c : BitVec 64) : (s.storeCtr c).ovr = s.ovr := rfl
@[simp] theorem State.storeCtr_errcode (s : State) (c : BitVec 64) : (s.storeCtr c).errcode = s.errcode := rfl
@[simp] theorem State.storeCtr_cmdLast (s : State) (c : BitVec 64) : (s.storeCtr c).cmdLast = s.cmdLast := rfl
@[simp] theorem State.storeCtr_keylen (s : State) (c : BitVec 64) : (s.storeCtr c).keylen = s.keylen := rfl
@[simp] theorem State.storeCtr_msglen (s : State) (c : BitVec 64) : (s.storeCtr c).msglen = s.msglen := rfl
@[simp] theorem State.storeCtr_ctr (s : State) (c : BitVec 64) : (s.storeCtr c).ctr = c := rfl
@[simp] theorem State.storeCtr_epoch (s : State) (c : BitVec 64) : (s.storeCtr c).epoch = s.epoch := rfl
@[simp] theorem State.storeCtr_interval (s : State) (c : BitVec 64) : (s.storeCtr c).interval = s.interval := rfl
@[simp] theorem State.storeCtr_trunc (s : State) (c : BitVec 64) : (s.storeCtr c).trunc = s.trunc := rfl
@[simp] theorem State.storeCtr_offset (s : State) (c : BitVec 64) : (s.storeCtr c).offset = s.offset := rfl
@[simp] theorem State.storeCtr_code (s : State) (c : BitVec 64) : (s.storeCtr c).code = s.code := rfl
@[simp] theorem State.storeCtr_digest (s : State) (c : BitVec 64) : (s.storeCtr c).digest = s.digest := rfl
@[simp] theorem State.storeCtr_key (s : State) (c : BitVec 64) : (s.storeCtr c).key = s.key := rfl
@[simp] theorem State.storeCtr_msg (s : State) (c : BitVec 64) : (s.storeCtr c).msg = s.msg := rfl
@[simp] theorem State.storeCtr_rst (s : State) (c : BitVec 64) : (s.storeCtr c).rst = s.rst := rfl
@[simp] theorem State.storeCtr_script (s : State) (c : BitVec 64) : (s.storeCtr c).script = s.script := rfl
@[simp] theorem State.storeCtr_rdata (s : State) (c : BitVec 64) : (s.storeCtr c).rdata = s.rdata := rfl
@[simp] theorem State.storeCtr_draws (s : State) (c : BitVec 64) : (s.storeCtr c).draws = s.draws := rfl

/-! ### `State.setOvr` -/

@[simp] theorem State.setOvr_config (s : State) : (s.setOvr).config = s.config := rfl
@[simp] theorem State.setOvr_ie (s : State) : (s.setOvr).ie = s.ie := rfl
@[simp] theorem State.setOvr_pending (s : State) : (s.setOvr).pending = s.pending := rfl
@[simp] theorem State.setOvr_done (s : State) : (s.setOvr).done = s.done := rfl
@[simp] theorem State.setOvr_err (s : State) : (s.setOvr).err = s.err := rfl
@[simp] theorem State.setOvr_ovr (s : State) : (s.setOvr).ovr = true := rfl
@[simp] theorem State.setOvr_errcode (s : State) : (s.setOvr).errcode = s.errcode := rfl
@[simp] theorem State.setOvr_cmdLast (s : State) : (s.setOvr).cmdLast = s.cmdLast := rfl
@[simp] theorem State.setOvr_keylen (s : State) : (s.setOvr).keylen = s.keylen := rfl
@[simp] theorem State.setOvr_msglen (s : State) : (s.setOvr).msglen = s.msglen := rfl
@[simp] theorem State.setOvr_ctr (s : State) : (s.setOvr).ctr = s.ctr := rfl
@[simp] theorem State.setOvr_epoch (s : State) : (s.setOvr).epoch = s.epoch := rfl
@[simp] theorem State.setOvr_interval (s : State) : (s.setOvr).interval = s.interval := rfl
@[simp] theorem State.setOvr_trunc (s : State) : (s.setOvr).trunc = s.trunc := rfl
@[simp] theorem State.setOvr_offset (s : State) : (s.setOvr).offset = s.offset := rfl
@[simp] theorem State.setOvr_code (s : State) : (s.setOvr).code = s.code := rfl
@[simp] theorem State.setOvr_digest (s : State) : (s.setOvr).digest = s.digest := rfl
@[simp] theorem State.setOvr_key (s : State) : (s.setOvr).key = s.key := rfl
@[simp] theorem State.setOvr_msg (s : State) : (s.setOvr).msg = s.msg := rfl
@[simp] theorem State.setOvr_rst (s : State) : (s.setOvr).rst = s.rst := rfl
@[simp] theorem State.setOvr_script (s : State) : (s.setOvr).script = s.script := rfl
@[simp] theorem State.setOvr_rdata (s : State) : (s.setOvr).rdata = s.rdata := rfl
@[simp] theorem State.setOvr_draws (s : State) : (s.setOvr).draws = s.draws := rfl

/-! ### `State.present` -/

@[simp] theorem State.present_config (s : State) (w : Word) : (s.present w).config = s.config := rfl
@[simp] theorem State.present_ie (s : State) (w : Word) : (s.present w).ie = s.ie := rfl
@[simp] theorem State.present_pending (s : State) (w : Word) : (s.present w).pending = s.pending := rfl
@[simp] theorem State.present_done (s : State) (w : Word) : (s.present w).done = false := rfl
@[simp] theorem State.present_err (s : State) (w : Word) : (s.present w).err = false := rfl
@[simp] theorem State.present_ovr (s : State) (w : Word) : (s.present w).ovr = s.ovr := rfl
@[simp] theorem State.present_errcode (s : State) (w : Word) : (s.present w).errcode = 0 := rfl
@[simp] theorem State.present_cmdLast (s : State) (w : Word) : (s.present w).cmdLast = w := rfl
@[simp] theorem State.present_keylen (s : State) (w : Word) : (s.present w).keylen = s.keylen := rfl
@[simp] theorem State.present_msglen (s : State) (w : Word) : (s.present w).msglen = s.msglen := rfl
@[simp] theorem State.present_ctr (s : State) (w : Word) : (s.present w).ctr = s.ctr := rfl
@[simp] theorem State.present_epoch (s : State) (w : Word) : (s.present w).epoch = s.epoch := rfl
@[simp] theorem State.present_interval (s : State) (w : Word) : (s.present w).interval = s.interval := rfl
@[simp] theorem State.present_trunc (s : State) (w : Word) : (s.present w).trunc = s.trunc := rfl
@[simp] theorem State.present_offset (s : State) (w : Word) : (s.present w).offset = s.offset := rfl
@[simp] theorem State.present_code (s : State) (w : Word) : (s.present w).code = s.code := rfl
@[simp] theorem State.present_digest (s : State) (w : Word) : (s.present w).digest = s.digest := rfl
@[simp] theorem State.present_key (s : State) (w : Word) : (s.present w).key = s.key := rfl
@[simp] theorem State.present_msg (s : State) (w : Word) : (s.present w).msg = s.msg := rfl
@[simp] theorem State.present_rst (s : State) (w : Word) : (s.present w).rst = s.rst := rfl
@[simp] theorem State.present_script (s : State) (w : Word) : (s.present w).script = s.script := rfl
@[simp] theorem State.present_rdata (s : State) (w : Word) : (s.present w).rdata = s.rdata := rfl
@[simp] theorem State.present_draws (s : State) (w : Word) : (s.present w).draws = s.draws := rfl

/-! ### `State.raiseError` -/

@[simp] theorem State.raiseError_config (s : State) (k : ErrorCode) : (s.raiseError k).config = s.config := rfl
@[simp] theorem State.raiseError_ie (s : State) (k : ErrorCode) : (s.raiseError k).ie = s.ie := rfl
@[simp] theorem State.raiseError_pending (s : State) (k : ErrorCode) : (s.raiseError k).pending = s.pending := rfl
@[simp] theorem State.raiseError_done (s : State) (k : ErrorCode) : (s.raiseError k).done = s.done := rfl
@[simp] theorem State.raiseError_err (s : State) (k : ErrorCode) : (s.raiseError k).err = true := rfl
@[simp] theorem State.raiseError_ovr (s : State) (k : ErrorCode) : (s.raiseError k).ovr = s.ovr := rfl
@[simp] theorem State.raiseError_errcode (s : State) (k : ErrorCode) : (s.raiseError k).errcode = k.code := rfl
@[simp] theorem State.raiseError_cmdLast (s : State) (k : ErrorCode) : (s.raiseError k).cmdLast = s.cmdLast := rfl
@[simp] theorem State.raiseError_keylen (s : State) (k : ErrorCode) : (s.raiseError k).keylen = s.keylen := rfl
@[simp] theorem State.raiseError_msglen (s : State) (k : ErrorCode) : (s.raiseError k).msglen = s.msglen := rfl
@[simp] theorem State.raiseError_ctr (s : State) (k : ErrorCode) : (s.raiseError k).ctr = s.ctr := rfl
@[simp] theorem State.raiseError_epoch (s : State) (k : ErrorCode) : (s.raiseError k).epoch = s.epoch := rfl
@[simp] theorem State.raiseError_interval (s : State) (k : ErrorCode) : (s.raiseError k).interval = s.interval := rfl
@[simp] theorem State.raiseError_trunc (s : State) (k : ErrorCode) : (s.raiseError k).trunc = s.trunc := rfl
@[simp] theorem State.raiseError_offset (s : State) (k : ErrorCode) : (s.raiseError k).offset = s.offset := rfl
@[simp] theorem State.raiseError_code (s : State) (k : ErrorCode) : (s.raiseError k).code = s.code := rfl
@[simp] theorem State.raiseError_digest (s : State) (k : ErrorCode) : (s.raiseError k).digest = s.digest := rfl
@[simp] theorem State.raiseError_key (s : State) (k : ErrorCode) : (s.raiseError k).key = s.key := rfl
@[simp] theorem State.raiseError_msg (s : State) (k : ErrorCode) : (s.raiseError k).msg = s.msg := rfl
@[simp] theorem State.raiseError_rst (s : State) (k : ErrorCode) : (s.raiseError k).rst = s.rst := rfl
@[simp] theorem State.raiseError_script (s : State) (k : ErrorCode) : (s.raiseError k).script = s.script := rfl
@[simp] theorem State.raiseError_rdata (s : State) (k : ErrorCode) : (s.raiseError k).rdata = s.rdata := rfl
@[simp] theorem State.raiseError_draws (s : State) (k : ErrorCode) : (s.raiseError k).draws = s.draws := rfl

/-! ### `State.setPending` -/

@[simp] theorem State.setPending_config (s : State) (i : Instr) : (s.setPending i).config = s.config := rfl
@[simp] theorem State.setPending_ie (s : State) (i : Instr) : (s.setPending i).ie = s.ie := rfl
@[simp] theorem State.setPending_pending (s : State) (i : Instr) : (s.setPending i).pending = some i := rfl
@[simp] theorem State.setPending_done (s : State) (i : Instr) : (s.setPending i).done = s.done := rfl
@[simp] theorem State.setPending_err (s : State) (i : Instr) : (s.setPending i).err = s.err := rfl
@[simp] theorem State.setPending_ovr (s : State) (i : Instr) : (s.setPending i).ovr = s.ovr := rfl
@[simp] theorem State.setPending_errcode (s : State) (i : Instr) : (s.setPending i).errcode = s.errcode := rfl
@[simp] theorem State.setPending_cmdLast (s : State) (i : Instr) : (s.setPending i).cmdLast = s.cmdLast := rfl
@[simp] theorem State.setPending_keylen (s : State) (i : Instr) : (s.setPending i).keylen = s.keylen := rfl
@[simp] theorem State.setPending_msglen (s : State) (i : Instr) : (s.setPending i).msglen = s.msglen := rfl
@[simp] theorem State.setPending_ctr (s : State) (i : Instr) : (s.setPending i).ctr = s.ctr := rfl
@[simp] theorem State.setPending_epoch (s : State) (i : Instr) : (s.setPending i).epoch = s.epoch := rfl
@[simp] theorem State.setPending_interval (s : State) (i : Instr) : (s.setPending i).interval = s.interval := rfl
@[simp] theorem State.setPending_trunc (s : State) (i : Instr) : (s.setPending i).trunc = s.trunc := rfl
@[simp] theorem State.setPending_offset (s : State) (i : Instr) : (s.setPending i).offset = s.offset := rfl
@[simp] theorem State.setPending_code (s : State) (i : Instr) : (s.setPending i).code = s.code := rfl
@[simp] theorem State.setPending_digest (s : State) (i : Instr) : (s.setPending i).digest = s.digest := rfl
@[simp] theorem State.setPending_key (s : State) (i : Instr) : (s.setPending i).key = s.key := rfl
@[simp] theorem State.setPending_msg (s : State) (i : Instr) : (s.setPending i).msg = s.msg := rfl
@[simp] theorem State.setPending_rst (s : State) (i : Instr) : (s.setPending i).rst = s.rst := rfl
@[simp] theorem State.setPending_script (s : State) (i : Instr) : (s.setPending i).script = s.script := rfl
@[simp] theorem State.setPending_rdata (s : State) (i : Instr) : (s.setPending i).rdata = s.rdata := rfl
@[simp] theorem State.setPending_draws (s : State) (i : Instr) : (s.setPending i).draws = s.draws := rfl

/-! ### `State.finish` -/

@[simp] theorem State.finish_config (s : State) : (s.finish).config = s.config := rfl
@[simp] theorem State.finish_ie (s : State) : (s.finish).ie = s.ie := rfl
@[simp] theorem State.finish_pending (s : State) : (s.finish).pending = none := rfl
@[simp] theorem State.finish_done (s : State) : (s.finish).done = true := rfl
@[simp] theorem State.finish_err (s : State) : (s.finish).err = s.err := rfl
@[simp] theorem State.finish_ovr (s : State) : (s.finish).ovr = s.ovr := rfl
@[simp] theorem State.finish_errcode (s : State) : (s.finish).errcode = s.errcode := rfl
@[simp] theorem State.finish_cmdLast (s : State) : (s.finish).cmdLast = s.cmdLast := rfl
@[simp] theorem State.finish_keylen (s : State) : (s.finish).keylen = s.keylen := rfl
@[simp] theorem State.finish_msglen (s : State) : (s.finish).msglen = s.msglen := rfl
@[simp] theorem State.finish_ctr (s : State) : (s.finish).ctr = s.ctr := rfl
@[simp] theorem State.finish_epoch (s : State) : (s.finish).epoch = s.epoch := rfl
@[simp] theorem State.finish_interval (s : State) : (s.finish).interval = s.interval := rfl
@[simp] theorem State.finish_trunc (s : State) : (s.finish).trunc = s.trunc := rfl
@[simp] theorem State.finish_offset (s : State) : (s.finish).offset = s.offset := rfl
@[simp] theorem State.finish_code (s : State) : (s.finish).code = s.code := rfl
@[simp] theorem State.finish_digest (s : State) : (s.finish).digest = s.digest := rfl
@[simp] theorem State.finish_key (s : State) : (s.finish).key = s.key := rfl
@[simp] theorem State.finish_msg (s : State) : (s.finish).msg = s.msg := rfl
@[simp] theorem State.finish_rst (s : State) : (s.finish).rst = s.rst := rfl
@[simp] theorem State.finish_script (s : State) : (s.finish).script = s.script := rfl
@[simp] theorem State.finish_rdata (s : State) : (s.finish).rdata = s.rdata := rfl
@[simp] theorem State.finish_draws (s : State) : (s.finish).draws = s.draws := rfl

/-! ### `State.assertReset` -/

@[simp] theorem State.assertReset_config (s : State) : s.assertReset.config = s.config := rfl
@[simp] theorem State.assertReset_ie (s : State) : s.assertReset.ie = State.reset.ie := rfl
@[simp] theorem State.assertReset_pending (s : State) : s.assertReset.pending = State.reset.pending := rfl
@[simp] theorem State.assertReset_done (s : State) : s.assertReset.done = State.reset.done := rfl
@[simp] theorem State.assertReset_err (s : State) : s.assertReset.err = State.reset.err := rfl
@[simp] theorem State.assertReset_ovr (s : State) : s.assertReset.ovr = State.reset.ovr := rfl
@[simp] theorem State.assertReset_errcode (s : State) : s.assertReset.errcode = State.reset.errcode := rfl
@[simp] theorem State.assertReset_cmdLast (s : State) : s.assertReset.cmdLast = State.reset.cmdLast := rfl
@[simp] theorem State.assertReset_keylen (s : State) : s.assertReset.keylen = State.reset.keylen := rfl
@[simp] theorem State.assertReset_msglen (s : State) : s.assertReset.msglen = State.reset.msglen := rfl
@[simp] theorem State.assertReset_ctr (s : State) : s.assertReset.ctr = State.reset.ctr := rfl
@[simp] theorem State.assertReset_epoch (s : State) : s.assertReset.epoch = State.reset.epoch := rfl
@[simp] theorem State.assertReset_interval (s : State) : s.assertReset.interval = State.reset.interval := rfl
@[simp] theorem State.assertReset_trunc (s : State) : s.assertReset.trunc = State.reset.trunc := rfl
@[simp] theorem State.assertReset_offset (s : State) : s.assertReset.offset = State.reset.offset := rfl
@[simp] theorem State.assertReset_code (s : State) : s.assertReset.code = State.reset.code := rfl
@[simp] theorem State.assertReset_digest (s : State) : s.assertReset.digest = State.reset.digest := rfl
@[simp] theorem State.assertReset_key (s : State) : s.assertReset.key = State.reset.key := rfl
@[simp] theorem State.assertReset_msg (s : State) : s.assertReset.msg = State.reset.msg := rfl
@[simp] theorem State.assertReset_rst (s : State) : s.assertReset.rst = true := rfl
@[simp] theorem State.assertReset_script (s : State) : s.assertReset.script = s.script := rfl
@[simp] theorem State.assertReset_rdata (s : State) : s.assertReset.rdata = s.rdata := rfl
@[simp] theorem State.assertReset_draws (s : State) : s.assertReset.draws = s.draws := rfl

/-! ### `hostRead` -/

@[simp] theorem hostRead_config (r : Reg) (s : State) : (hostRead r s).config = s.config := rfl
@[simp] theorem hostRead_ie (r : Reg) (s : State) : (hostRead r s).ie = s.ie := rfl
@[simp] theorem hostRead_pending (r : Reg) (s : State) : (hostRead r s).pending = s.pending := rfl
@[simp] theorem hostRead_done (r : Reg) (s : State) : (hostRead r s).done = s.done := rfl
@[simp] theorem hostRead_err (r : Reg) (s : State) : (hostRead r s).err = s.err := rfl
@[simp] theorem hostRead_ovr (r : Reg) (s : State) : (hostRead r s).ovr = s.ovr := rfl
@[simp] theorem hostRead_errcode (r : Reg) (s : State) : (hostRead r s).errcode = s.errcode := rfl
@[simp] theorem hostRead_cmdLast (r : Reg) (s : State) : (hostRead r s).cmdLast = s.cmdLast := rfl
@[simp] theorem hostRead_keylen (r : Reg) (s : State) : (hostRead r s).keylen = s.keylen := rfl
@[simp] theorem hostRead_msglen (r : Reg) (s : State) : (hostRead r s).msglen = s.msglen := rfl
@[simp] theorem hostRead_ctr (r : Reg) (s : State) : (hostRead r s).ctr = s.ctr := rfl
@[simp] theorem hostRead_epoch (r : Reg) (s : State) : (hostRead r s).epoch = s.epoch := rfl
@[simp] theorem hostRead_interval (r : Reg) (s : State) : (hostRead r s).interval = s.interval := rfl
@[simp] theorem hostRead_trunc (r : Reg) (s : State) : (hostRead r s).trunc = s.trunc := rfl
@[simp] theorem hostRead_offset (r : Reg) (s : State) : (hostRead r s).offset = s.offset := rfl
@[simp] theorem hostRead_code (r : Reg) (s : State) : (hostRead r s).code = s.code := rfl
@[simp] theorem hostRead_digest (r : Reg) (s : State) : (hostRead r s).digest = s.digest := rfl
@[simp] theorem hostRead_key (r : Reg) (s : State) : (hostRead r s).key = s.key := rfl
@[simp] theorem hostRead_msg (r : Reg) (s : State) : (hostRead r s).msg = s.msg := rfl
@[simp] theorem hostRead_rst (r : Reg) (s : State) : (hostRead r s).rst = s.rst := rfl
@[simp] theorem hostRead_script (r : Reg) (s : State) : (hostRead r s).script = s.script := rfl
@[simp] theorem hostRead_rdata (r : Reg) (s : State) : (hostRead r s).rdata = some (readReg r s).1 := rfl
@[simp] theorem hostRead_draws (r : Reg) (s : State) : (hostRead r s).draws = (readReg r s).2 := rfl

end Sys2Proof.Machine
end

