-- ==== Sys2Proof/Laws/Commands.lean ====
section
/-! SUPPORT. What a command can do, said once: its checks, its effect, the three cases of one step of its life, and what
no effect of a command changes. -/

namespace Sys2Proof.Machine

/-- The checks of each command at acceptance, in their order (R131, R154, R181, R192, R202, R210, R211, R214). -/
def checksOf (i : Instr) (s : State) : List (Option ErrorCode) :=
  match i with
  | .nop => []
  | .encCtr => []
  | .hmac => [keylenCheck s, msglenCheck s]
  | .trunc => []
  | .modred _ => []
  | .tstep => [intervalCheck s]
  | .hotp d => [digitsCheck d, keylenCheck s]
  | .totp d => [digitsCheck d, intervalCheck s, keylenCheck s]

/-- The writes of each command's completion but PENDING and DONE (R104). -/
def effectOf (i : Instr) (s : State) : State :=
  match i with
  | .nop => s
  | .encCtr => encCtrEffect s
  | .hmac => hmacEffect s
  | .trunc => truncEffect s
  | .modred d => modredEffect d s
  | .tstep => tstepEffect s
  | .hotp d => hotpEffect d s
  | .totp d => totpEffect d s

theorem exec_eq_commandStep (i : Instr) (s : State) :
    exec i s = commandStep i (checksOf i s) (effectOf i) s := by
  cases i <;> rfl

/-- With PENDING empty a command is accepted, or refused with an error (R263). -/
theorem exec_of_idle (i : Instr) {s : State} (h : s.pending = none) :
    exec i s = .next (accept i (checksOf i s) s) := by
  rw [exec_eq_commandStep, commandStep, h]

/-- With the command itself pending it completes (R264). -/
theorem exec_of_pending {i : Instr} {s : State} (h : s.pending = some i) :
    exec i s = .next (effectOf i s).finish := by
  simp [exec_eq_commandStep, commandStep, h]

/-- With another command pending it is dropped (R234). -/
theorem exec_of_other {i j : Instr} {s : State} (h : s.pending = some j) (hne : j ≠ i) :
    exec i s = .next s.setOvr := by
  simp [exec_eq_commandStep, commandStep, h, hne]

/-- No command ever stops the machine. -/
theorem exec_next (i : Instr) (s : State) : ∃ t, exec i s = .next t := by
  rcases h : s.pending with _ | j
  · exact ⟨_, exec_of_idle i h⟩
  · by_cases hj : j = i
    · exact ⟨_, exec_of_pending (hj ▸ h)⟩
    · exact ⟨_, exec_of_other h hj⟩

/-! ### The pipeline -/

/-- What a key that is all written reads as: itself, with no free byte drawn (R36, R54). -/
theorem readKey_of_written {s : State} {k : List Byte} (hl : k.length = s.keylen.toNat)
    (h : ∀ j (hj : j < k.length), s.key.get? j = some k[j]) : s.readKey = (k, s.draws) := by
  rw [State.readKey, ← hl]
  exact Memory.readBytes_of_written _ _ _ _ fun j hj => by simpa using h j hj

/-- What a message that is all written reads as (R37, R54). -/
theorem readMsg_of_written {s : State} {m : List Byte} (n : Nat) (hl : m.length = s.msglen.toNat)
    (h : ∀ j (hj : j < m.length), s.msg.get? j = some m[j]) : s.readMsg n = (m, n) := by
  rw [State.readMsg, ← hl]
  exact Memory.readBytes_of_written _ _ _ _ fun j hj => by simpa using h j hj

/-- Everything the pipeline writes, for the digest its hasher gives (R212, R215). -/
theorem codePipeline_eq {s : State} {c : BitVec 64} {dg : Digest} (d : Nat)
    (h : hmacSha1 s.readKey.1 (encodeCounter c) = dg) :
    codePipeline c d s = { s with
      msg := s.msg.setBytes 0 (encodeCounter c)
      msglen := 8
      digest := dg
      draws := s.readKey.2
      offset := (truncate dg).1
      trunc := (truncate dg).2
      code := reduce (truncate dg).2 d } := by
  subst h
  rfl

/-! ### What no effect changes -/

@[simp] theorem effectOf_config (i : Instr) (s : State) : (effectOf i s).config = s.config := by cases i <;> rfl
@[simp] theorem effectOf_ie (i : Instr) (s : State) : (effectOf i s).ie = s.ie := by cases i <;> rfl
@[simp] theorem effectOf_pending (i : Instr) (s : State) : (effectOf i s).pending = s.pending := by cases i <;> rfl
@[simp] theorem effectOf_done (i : Instr) (s : State) : (effectOf i s).done = s.done := by cases i <;> rfl
@[simp] theorem effectOf_err (i : Instr) (s : State) : (effectOf i s).err = s.err := by cases i <;> rfl
@[simp] theorem effectOf_ovr (i : Instr) (s : State) : (effectOf i s).ovr = s.ovr := by cases i <;> rfl
@[simp] theorem effectOf_errcode (i : Instr) (s : State) : (effectOf i s).errcode = s.errcode := by cases i <;> rfl
@[simp] theorem effectOf_cmdLast (i : Instr) (s : State) : (effectOf i s).cmdLast = s.cmdLast := by cases i <;> rfl
@[simp] theorem effectOf_keylen (i : Instr) (s : State) : (effectOf i s).keylen = s.keylen := by cases i <;> rfl
@[simp] theorem effectOf_epoch (i : Instr) (s : State) : (effectOf i s).epoch = s.epoch := by cases i <;> rfl
@[simp] theorem effectOf_interval (i : Instr) (s : State) : (effectOf i s).interval = s.interval := by cases i <;> rfl
@[simp] theorem effectOf_key (i : Instr) (s : State) : (effectOf i s).key = s.key := by cases i <;> rfl
@[simp] theorem effectOf_rst (i : Instr) (s : State) : (effectOf i s).rst = s.rst := by cases i <;> rfl
@[simp] theorem effectOf_script (i : Instr) (s : State) : (effectOf i s).script = s.script := by cases i <;> rfl
@[simp] theorem effectOf_rdata (i : Instr) (s : State) : (effectOf i s).rdata = s.rdata := by cases i <;> rfl

/-- The only write of a command to MSG is the encoded counter at bytes 0 to 7 (R46). -/
theorem effectOf_msg (i : Instr) (s : State) :
    (effectOf i s).msg = s.msg ∨ ∃ c, (effectOf i s).msg = s.msg.setBytes 0 (encodeCounter c) := by
  cases i with
  | encCtr => exact .inr ⟨_, rfl⟩
  | hotp d => exact .inr ⟨_, rfl⟩
  | totp d => exact .inr ⟨_, rfl⟩
  | nop => exact .inl rfl
  | hmac => exact .inl rfl
  | trunc => exact .inl rfl
  | modred d => exact .inl rfl
  | tstep => exact .inl rfl

end Sys2Proof.Machine
end

