-- ==== Sys2Proof/Laws/PerInstr.lean ====
section
/-! SUPPORT. For every command, as syntax: the three fields of its word (R100, R103). -/

namespace Sys2Proof.Laws.WordFields

/-- The word of a well-formed command has OP its opcode, RSV 0, and D its digit count (R100, R103). -/
def Statement (i : Instr) : Prop :=
  WellFormed i → opField (encode i) = i.opcode ∧ rsvField (encode i) = 0 ∧ (digitField (encode i)).toNat = i.digits

/-- A command with a digit count, checked on each of the sixteen counts. -/
theorem of_digits (f : Nat → Instr) (hf : ∀ d, (f d).digits = d)
    (h : ∀ d < 16, opField (encode (f d)) = (f d).opcode ∧ rsvField (encode (f d)) = 0 ∧
      (digitField (encode (f d))).toNat = (f d).digits) (d : Nat) : Statement (f d) :=
  fun hw => h d (by have := hf d; simp only [WellFormed] at hw; omega)

theorem nop : Statement .nop := fun _ => by decide
theorem encCtr : Statement .encCtr := fun _ => by decide
theorem hmac : Statement .hmac := fun _ => by decide
theorem trunc : Statement .trunc := fun _ => by decide
theorem modred (d : Nat) : Statement (.modred d) := of_digits .modred (fun _ => rfl) (by decide) d
theorem tstep : Statement .tstep := fun _ => by decide
theorem hotp (d : Nat) : Statement (.hotp d) := of_digits .hotp (fun _ => rfl) (by decide) d
theorem totp (d : Nat) : Statement (.totp d) := of_digits .totp (fun _ => rfl) (by decide) d

end Sys2Proof.Laws.WordFields
end

