-- ==== Sys2Proof/Laws/Port.lean ====
section
/-! SUPPORT. What a port event and a step can do, said once. -/

namespace Sys2Proof.Machine

/-- An aligned 32-bit access inside the window reaches the word of its offset (R72, R73). -/
theorem portTarget_offset (c : Config) {off : Nat} (h : off < 4096) (h4 : off % 4 = 0) :
    portTarget c (c.base + off) .w32 = .ok (regAt off) := by
  simp only [portTarget]
  rw [if_neg (by omega), if_neg (by simp), if_neg (by simpa [Nat.add_sub_cancel_left] using h4)]
  simp

theorem portTarget_cmd (c : Config) : portTarget c (c.base + 0x010) .w32 = .ok .cmd :=
  portTarget_offset c (by decide) (by decide)

/-- An access that has a target is a 32-bit, aligned one inside the window. -/
theorem portTarget_ok {c : Config} {addr : Nat} {width : Width} {r : Reg} (h : portTarget c addr width = .ok r) :
    ∃ off, off < 4096 ∧ off % 4 = 0 ∧ addr = c.base + off ∧ width = .w32 ∧ r = regAt off := by
  simp only [portTarget] at h
  split at h
  · cases h
  · split at h
    · cases h
    · split at h
      · cases h
      · rename_i h1 h2 h3
        cases h
        exact ⟨addr - c.base, by omega, by omega, by omega, by simpa using h2, rfl⟩

/-- The accesses of R73, and no others, reach a word. -/
theorem portTarget_ok_iff {c : Config} {addr : Nat} {width : Width} {r : Reg} :
    portTarget c addr width = .ok r ↔ GoodAccess c addr width ∧ r = regAt (addr - c.base) := by
  constructor
  · intro h
    obtain ⟨off, h1, h2, rfl, rfl, rfl⟩ := portTarget_ok h
    simpa [GoodAccess] using ⟨h1, h2⟩
  · rintro ⟨⟨rfl, h1, h2, h3⟩, rfl⟩
    obtain ⟨off, rfl⟩ := Nat.exists_eq_add_of_le h1
    have h4 : off % 4 = 0 := by simpa using h3
    simpa using portTarget_offset c (off := off) (by omega) h4

@[simp] theorem run_zero (s : State) : run 0 s = .next s := rfl

/-- A run goes on after a step that gives a next state. -/
theorem run_succ_of_next {n : Nat} {s t : State} (h : step s = .next t) : run (n + 1) s = run n t := by
  have h' : Sys2Proof.core.step s = .next t := h
  simp only [run, Host.Core.run, h']
  rfl

/-- A run stops at the first fault. -/
theorem run_succ_of_fault {n : Nat} {s : State} {r : Fault} (h : step s = .fault r) : run (n + 1) s = .fault r := by
  have h' : Sys2Proof.core.step s = .fault r := h
  simp only [run, Host.Core.run, h']
  rfl

/-- A run stops at the first refusal. -/
theorem run_succ_of_refused {n : Nat} {s : State} {r : Refusal} (h : step s = .refused r) :
    run (n + 1) s = .refused r := by
  have h' : Sys2Proof.core.step s = .refused r := h
  simp only [run, Host.Core.run, h']
  rfl

/-- A run of one step more that gives a next state: its first step gave one, and so did the rest. -/
theorem run_succ_next {n : Nat} {s u : State} (h : run (n + 1) s = .next u) :
    ∃ t, step s = .next t ∧ run n t = .next u := by
  rcases hs : step s with t | r | r
  · exact ⟨t, rfl, by rwa [run_succ_of_next hs] at h⟩
  · rw [run_succ_of_fault hs] at h; cases h
  · rw [run_succ_of_refused hs] at h; cases h

theorem step_nil {s : State} (h : s.script = []) : step s = completionStep s := by simp [step, h]

theorem step_cons {s : State} {e : PortEvent} {es : List PortEvent} (h : s.script = e :: es) :
    step s = portEvent e { s with script := es } := by simp [step, h]

theorem completionStep_of_idle {s : State} (h : s.pending = none) : completionStep s = .next s := by
  simp [completionStep, h]

theorem completionStep_of_pending {i : Instr} {s : State} (h : s.pending = some i) :
    completionStep s = .next (effectOf i s).finish := by
  simp [completionStep, h, exec_of_pending h]

theorem hostAccess_of_ok {addr : Nat} {width : Width} {s : State} {r : Reg}
    (run : Reg → Host.Outcome State Fault Refusal) (hr : s.rst = false)
    (h : portTarget s.config addr width = .ok r) : hostAccess addr width s run = run r := by
  simp [hostAccess, hr, h]

/-- A host access that gives a next state was made out of reset and has a target. -/
theorem hostAccess_next {addr : Nat} {width : Width} {s t : State} {run : Reg → Host.Outcome State Fault Refusal}
    (h : hostAccess addr width s run = .next t) :
    s.rst = false ∧ ∃ r, portTarget s.config addr width = .ok r ∧ run r = .next t := by
  simp only [hostAccess] at h
  split at h
  · cases h
  · rename_i hr
    refine ⟨by simpa using hr, ?_⟩
    split at h
    · cases h
    · rename_i r hp
      exact ⟨r, hp, h⟩

/-- Everything a host write can do (R263, R266). -/
theorem hostWrite_cases {r : Reg} {w : Word} {s t : State} (h : hostWrite r w s = .next t) :
    (s.busy = true ∧ r.locked = true ∧ t = s.setOvr) ∨
    (r = .cmd ∧ s.pending = none ∧
      ((∃ i, decode w = .command i ∧ t = accept i (checksOf i s) s) ∨
        (∃ why, decode w = .illegal why ∧ t = rejectWord w s))) ∨
    (r ≠ .cmd ∧ (s.busy = true → r.locked = false) ∧ t = storeReg r w s) := by
  simp only [hostWrite] at h
  split at h
  · rename_i hb
    cases h
    simp only [Bool.and_eq_true] at hb
    exact .inl ⟨hb.1, hb.2, rfl⟩
  · rename_i hb
    split at h
    · rename_i hc
      subst hc
      have hp : s.pending = none := by simpa [State.busy, Reg.locked] using hb
      refine .inr (.inl ⟨rfl, hp, ?_⟩)
      simp only [presentCommand] at h
      split at h
      · rename_i i hd
        rw [exec_of_idle i hp] at h
        cases h
        exact .inl ⟨i, hd, rfl⟩
      · rename_i why hd
        cases h
        exact .inr ⟨why, hd, rfl⟩
    · rename_i hc
      cases h
      exact .inr (.inr ⟨hc, fun h1 => by simpa [h1] using hb, rfl⟩)

/-- A host write never stops the machine. -/
theorem hostWrite_next (r : Reg) (w : Word) (s : State) : ∃ t, hostWrite r w s = .next t := by
  simp only [hostWrite]
  split
  · exact ⟨_, rfl⟩
  · split
    · simp only [presentCommand]
      split
      · exact exec_next _ _
      · exact ⟨_, rfl⟩
    · exact ⟨_, rfl⟩

/-- A step whose event is an aligned 32-bit write inside the window, out of reset. -/
theorem step_write {s : State} {off : Nat} {w : Word} {es : List PortEvent}
    (h : s.script = .write (s.config.base + off) .w32 w :: es) (hr : s.rst = false) (ho : off < 4096)
    (h4 : off % 4 = 0) : step s = hostWrite (regAt off) w { s with script := es } := by
  rw [step_cons h]
  exact hostAccess_of_ok _ hr (portTarget_offset s.config ho h4)

/-- A step whose event is an aligned 32-bit read inside the window, out of reset. -/
theorem step_read {s : State} {off : Nat} {es : List PortEvent}
    (h : s.script = .read (s.config.base + off) .w32 :: es) (hr : s.rst = false) (ho : off < 4096)
    (h4 : off % 4 = 0) : step s = .next (hostRead (regAt off) { s with script := es }) := by
  rw [step_cons h]
  exact hostAccess_of_ok _ hr (portTarget_offset s.config ho h4)

/-- The completion's turn: the state it leaves, with PENDING empty (nothing happens) or not (R264). -/
theorem completionStep_cases {s t : State} (h : completionStep s = .next t) :
    (s.pending = none ∧ t = s) ∨ ∃ i, s.pending = some i ∧ t = (effectOf i s).finish := by
  rcases hp : s.pending with _ | i
  · rw [completionStep_of_idle hp] at h
    cases h
    exact .inl ⟨rfl, rfl⟩
  · rw [completionStep_of_pending hp] at h
    cases h
    exact .inr ⟨i, rfl, rfl⟩

/-- A write of a word but CMD to an idle block is performed. -/
theorem hostWrite_of_idle {r : Reg} {w : Word} {s : State} (h : s.pending = none) (hc : r ≠ .cmd) :
    hostWrite r w s = .next (storeReg r w s) := by
  simp only [hostWrite, State.busy, h]
  rw [if_neg (by simp), if_neg hc]

/-- A write of a word the BUSY lock does not cover is performed, busy or not. -/
theorem hostWrite_of_unlocked {r : Reg} {w : Word} {s : State} (h : r.locked = false) :
    hostWrite r w s = .next (storeReg r w s) := by
  simp only [hostWrite, h]
  rw [if_neg (by simp), if_neg (by rintro rfl; simp [Reg.locked] at h)]

/-- A write of a locked word while a command is in flight is dropped and sets OVR (R266). -/
theorem hostWrite_of_locked {r : Reg} {w : Word} {s : State} (h : r.locked = true) (hp : s.pending ≠ none) :
    hostWrite r w s = .next s.setOvr := by
  simp only [hostWrite, h, State.busy]
  rw [if_pos]
  simpa [Option.isSome_iff_ne_none] using hp

/-- What a host write of STATUS does to each flag, and that it does nothing else (R34, R75). -/
theorem writeStatus_eq (w : Word) (s : State) : writeStatus w s = { s with
    done := s.done && !w.getLsbD 1
    err := s.err && !w.getLsbD 2
    errcode := if w.getLsbD 2 then 0 else s.errcode
    ovr := s.ovr && !w.getLsbD 3 } := by
  simp only [writeStatus, State.clearDone, State.clearErr, State.clearOvr]
  cases w.getLsbD 1 <;> cases w.getLsbD 2 <;> cases w.getLsbD 3 <;> simp

/-- What no host write but CMD changes. -/
theorem storeReg_frame (r : Reg) (w : Word) (s : State) :
    (storeReg r w s).config = s.config ∧ (storeReg r w s).pending = s.pending ∧ (storeReg r w s).cmdLast = s.cmdLast ∧
    (storeReg r w s).offset = s.offset ∧ (storeReg r w s).code = s.code ∧ (storeReg r w s).digest = s.digest ∧
    (storeReg r w s).rst = s.rst ∧ (storeReg r w s).script = s.script ∧ (storeReg r w s).rdata = s.rdata ∧
    (storeReg r w s).draws = s.draws := by
  cases r with
  | status => rw [storeReg, writeStatus_eq]; simp
  | key k => simp only [storeReg]; split <;> simp
  | msg k => simp only [storeReg]; split <;> simp
  | _ => exact ⟨rfl, rfl, rfl, rfl, rfl, rfl, rfl, rfl, rfl, rfl⟩

/-- What no acceptance changes (R263). -/
theorem accept_frame (i : Instr) (checks : List (Option ErrorCode)) (s : State) : accept i checks s = { s with
    cmdLast := encode i
    done := false
    err := (accept i checks s).err
    errcode := (accept i checks s).errcode
    pending := (accept i checks s).pending } := by
  simp only [accept]
  cases firstError checks <;> rfl

/-- The buffers of the reset state are in canonical form. -/
theorem reset_buffers_wf : Memory.wf State.reset.key ∧ Memory.wf State.reset.msg := by decide

/-- The events left after a step. -/
def restOf (s : State) : List PortEvent := s.script.tail

/-- Everything a step can do when it answers a next state: the completion's turn, a read, a write, or a change of
`rst`. -/
theorem step_cases {s t : State} (h : step s = .next t) :
    ((s.script = [] ∨ s.script = .tick :: restOf s) ∧ completionStep { s with script := restOf s } = .next t) ∨
    (∃ addr width r, s.script = .read addr width :: restOf s ∧ s.rst = false ∧
      portTarget s.config addr width = .ok r ∧ t = hostRead r { s with script := restOf s }) ∨
    (∃ addr width w r, s.script = .write addr width w :: restOf s ∧ s.rst = false ∧
      portTarget s.config addr width = .ok r ∧ hostWrite r w { s with script := restOf s } = .next t) ∨
    (s.script = .rst true :: restOf s ∧ t = { s with script := restOf s }.assertReset) ∨
    (s.script = .rst false :: restOf s ∧ t = { s with script := restOf s, rst := false }) := by
  rcases hs : s.script with _ | ⟨e, es⟩
  · rw [step_nil hs] at h
    refine .inl ⟨.inl rfl, ?_⟩
    have hr : restOf s = s.script := by simp [restOf, hs]
    rw [hr]
    exact h
  · have hr : restOf s = es := by simp [restOf, hs]
    rw [step_cons hs] at h
    rw [hr]
    cases e with
    | tick => exact .inl ⟨.inr rfl, h⟩
    | read addr width =>
      obtain ⟨h1, r, h2, h3⟩ := hostAccess_next h
      cases h3
      exact .inr (.inl ⟨addr, width, r, rfl, h1, h2, rfl⟩)
    | write addr width w =>
      obtain ⟨h1, r, h2, h3⟩ := hostAccess_next h
      exact .inr (.inr (.inl ⟨addr, width, w, r, rfl, h1, h2, h3⟩))
    | rst level =>
      cases level with
      | true =>
        cases h
        exact .inr (.inr (.inr (.inl ⟨rfl, rfl⟩)))
      | false =>
        cases h
        exact .inr (.inr (.inr (.inr ⟨rfl, rfl⟩)))

/-- A step takes one event off the script. -/
theorem step_script {s t : State} (h : step s = .next t) : t.script = restOf s := by
  rcases step_cases h with ⟨-, h2⟩ | ⟨_, _, r, -, -, -, rfl⟩ | ⟨_, _, w, r, -, -, -, h4⟩ | ⟨-, rfl⟩ | ⟨-, rfl⟩
  · rcases completionStep_cases h2 with ⟨-, rfl⟩ | ⟨i, -, rfl⟩
    · rfl
    · exact effectOf_script _ _
  · rfl
  · rcases hostWrite_cases h4 with ⟨-, -, rfl⟩ | ⟨-, -, ⟨i, -, rfl⟩ | ⟨_, -, rfl⟩⟩ | ⟨-, -, rfl⟩
    · rfl
    · rw [accept_frame]
    · rfl
    · exact (storeReg_frame r w _).2.2.2.2.2.2.2.1
  · rfl
  · rfl

end Sys2Proof.Machine
end

