-- ==== Sys2Proof/Laws/Sha1.lean ====
section
/-! SUPPORT. The laws of SHA-1's schedule, rounds and blocks: lengths, and each recursion as one fold. -/

namespace Sys2Proof.Machine

theorem sha1Extend_length (n : Nat) : ∀ ws : List Word, (sha1Extend n ws).length = n + ws.length := by
  induction n with
  | zero => intro ws; simp [sha1Extend]
  | succ n ih => intro ws; rw [sha1Extend, ih, List.length_cons]; omega

/-- The words a schedule is extended from stay behind the new ones. -/
theorem sha1Extend_drop (n : Nat) : ∀ ws : List Word, (sha1Extend n ws).drop n = ws := by
  induction n with
  | zero => intro ws; rfl
  | succ n ih => intro ws; rw [sha1Extend, ← List.drop_drop, ih]; rfl

@[simp] theorem sha1Schedule_length (block : List Byte) : (sha1Schedule block).length = 80 := by
  simp [sha1Schedule, sha1Extend_length, sha1BlockWords]

/-- The rounds from t on as one fold over their numbers. -/
theorem sha1Rounds_eq_foldl (ws : List Word) : ∀ (t : Nat) (h : HashWords), sha1Rounds t ws h =
    (List.range ws.length).foldl (fun x j => sha1Round (t + j) (ws.getD j 0) x) h := by
  induction ws with
  | nil => intro t h; rfl
  | cons w ws ih =>
    intro t h
    rw [sha1Rounds, ih, List.length_cons, List.range_succ_eq_map, List.foldl_cons, List.foldl_map]
    simp [Nat.add_comm, Nat.add_left_comm]

/-- One more block is compressed after those before it. -/
theorem sha1Blocks_succ (n : Nat) (p : List Byte) (h : HashWords) :
    sha1Blocks (n + 1) p h = sha1Compress (sha1Blocks n p h) (sha1Block p n) := by
  simp [sha1Blocks, List.range_succ]

end Sys2Proof.Machine
end

