-- ==== Sys2Proof/Tests/Slice0.lean ====
section
/-! SUPPORT. Tests and witnesses. Expected values come from spec/95_test_vectors.md (its section and row stand before each
test) or from the encoding of 30_encoding.md. The witnesses show, for every statement with hypotheses, concrete data that
meet all of them together, at the boundaries of each clause. -/

namespace Sys2Proof.Tests

open Sys2Proof.Machine

/-! ### Helpers -/

/-- The next state, where there is one. -/
def nextOf (o : Host.Outcome State Fault Refusal) : Option State :=
  match o with
  | .next t => some t
  | .fault _ => none
  | .refused _ => none

/-- The state right after reset with a command pending. -/
def running (i : Instr) : State := { State.reset with pending := some i }

/-- The state right after reset with one event to come. -/
def withEvent (e : PortEvent) : State := { State.reset with script := [e] }

/-- The state right after reset with one 32-bit write to come. -/
def writing (off : Nat) (w : Word) : State := withEvent (memWrite Config.default off w)

/-- The state right after reset with one 32-bit read to come. -/
def reading (off : Nat) : State := withEvent (memRead Config.default off)

/-- Bytes as a buffer holds them, from byte 0 on. -/
def buffer (bs : List Byte) : Memory := Memory.setBytes [] 0 bs

/-- K20 of 95 §Notation: the ASCII key "12345678901234567890". -/
def k20 : List Byte :=
  [0x31, 0x32, 0x33, 0x34, 0x35, 0x36, 0x37, 0x38, 0x39, 0x30, 0x31, 0x32, 0x33, 0x34, 0x35, 0x36, 0x37, 0x38, 0x39, 0x30]

/-- The state right after reset with K20 loaded and a command pending. -/
def keyed (i : Instr) : State := { running i with key := buffer k20, keylen := 20 }

/-! ### WellFormed: the one check, with an ill-formed command of every shape that it concerns -/

theorem test_wellformed_refuses_modred_16 : ¬ WellFormed (.modred 16) := by decide
theorem test_wellformed_refuses_hotp_16 : ¬ WellFormed (.hotp 16) := by decide
theorem test_wellformed_refuses_totp_16 : ¬ WellFormed (.totp 16) := by decide
theorem test_wellformed_takes_15 : WellFormed (.modred 15) ∧ WellFormed (.hotp 15) ∧ WellFormed (.totp 15) := by decide

/-! ### Decoding: RSV (20 bits), D (4 bits), OP (8 bits), written out from R100 and R103 -/

theorem test_decode_nop : decodeTableWord 32 0b00000000000000000000000000000000 = some .nop := by decide
theorem test_decode_encCtr : decodeTableWord 32 0b00000000000000000000000000000001 = some .encCtr := by decide
theorem test_decode_hmac : decodeTableWord 32 0b00000000000000000000000000000010 = some .hmac := by decide
theorem test_decode_trunc : decodeTableWord 32 0b00000000000000000000000000000011 = some .trunc := by decide
theorem test_decode_modred : decodeTableWord 32 0b00000000000000000000110100000100 = some (.modred 13) := by decide
theorem test_decode_tstep : decodeTableWord 32 0b00000000000000000000000000000101 = some .tstep := by decide
theorem test_decode_hotp : decodeTableWord 32 0b00000000000000000000011000000110 = some (.hotp 6) := by decide
theorem test_decode_totp : decodeTableWord 32 0b00000000000000000000100000000111 = some (.totp 8) := by decide

/-- The illegal words of 95 §8.3. -/
theorem test_decode_refuses_illegal_words :
    ∀ w ∈ [0x100, 0x101, 0x108, 0xFF, 0x1000, 0x1006, 0x80000606], decodeTableWord 32 w = none := by decide

/-- The words of 95 §8.3 and §9 that the assembler makes. -/
theorem test_encode_words : encode .nop = 0x00000000 ∧ encode .encCtr = 0x00000001 ∧ encode .hmac = 0x00000002 ∧
    encode .trunc = 0x00000003 ∧ encode (.modred 15) = 0x00000F04 ∧ encode .tstep = 0x00000005 ∧
    encode (.hotp 9) = 0x00000906 ∧ encode (.totp 8) = 0x00000807 := by decide

/-! ### SHA-1 and HMAC-SHA1 -/

/-- 95 §2.1: 64 bytes of "a", one whole block and a block of padding. -/
theorem test_sha1_two_blocks :
    (sha1 (List.replicate 64 0x61)).toList = beBytes 20 0x0098ba824b5c16427bd7a1122a5a442a25ec644d := by decide +kernel

/-- 95 §2.1: 55 bytes of "a", the greatest length that fits one block. -/
theorem test_sha1_one_block :
    (sha1 (List.replicate 55 0x61)).toList = beBytes 20 0xc1c8bbdc22796e28c0e15163d20899b65621d65a := by decide +kernel

/-- 95 §2.2, H11: a key one byte longer than a block, and a message of one block. -/
theorem test_hmac_long_key :
    (hmacSha1 (List.replicate 65 0x01) (List.replicate 64 0)).toList = beBytes 20 0xc67bdbfc5d3ee2264f448be8e8cb837771d0a95c := by
  decide +kernel

/-- 95 §2.2, H8: the empty key and the empty message. -/
theorem test_hmac_empty_key :
    (hmacSha1 [] []).toList = beBytes 20 0xfbdb1d1b18aa6c08324b7d64b71fb76370690e1d := by
  decide +kernel

/-! ### The commands -/

/-- 95 §8.3: NOP makes STATUS 1, clearing ERR and ERRCODE of the error before. -/
theorem test_nop_accepts :
    (nextOf (exec .nop { State.reset with err := true, errcode := 3 })).map State.statusWord = some 0x00000001 := by decide

/-- 95 §8.3: and then 2. -/
theorem test_nop_completes : (nextOf (exec .nop (running .nop))).map State.statusWord = some 0x00000002 := by decide

/-- 95 §8.1, row 3. -/
theorem test_encCtr_bytes :
    (nextOf (exec .encCtr { running .encCtr with ctr := 0x0123456789ABCDEF })).map (fun t => (t.msg.map Prod.snd, t.msglen))
      = some ([0x01, 0x23, 0x45, 0x67, 0x89, 0xAB, 0xCD, 0xEF], 8) := by decide

/-- 95 §8.1, row 4, read back at the port as MSG0. -/
theorem test_encCtr_word :
    (nextOf (exec .encCtr { running .encCtr with ctr := 0x100000000 })).map (fun t => (readReg (.msg 0) t).1)
      = some 0x00000001 := by decide

/-- 95 §8.2, M2. -/
theorem test_hmac_digest :
    (nextOf (exec .hmac { running .hmac with
      key := buffer (List.replicate 20 0x0B), keylen := 20
      msg := buffer [0x48, 0x69, 0x20, 0x54, 0x68, 0x65, 0x72, 0x65], msglen := 8 })).map
        (fun t => (List.range 5).map fun k => (readReg (.digest k) t).1)
      = some [0xB6173186, 0x55057264, 0xE28BC0B6, 0xFB378C8E, 0xF146BE00] := by decide +kernel

/-- 95 §8.2, M5. -/
theorem test_hmac_checks_keylen_first :
    (nextOf (exec .hmac { State.reset with keylen := 257, msglen := 65 })).map State.statusWord = some 0x00000404 := by decide

/-- 95 §4, T5. -/
theorem test_trunc_window :
    (nextOf (exec .trunc { running .trunc with digest := #v[0x1f, 0x86, 0x98, 0x69, 0x0e, 0x02, 0xca, 0x16, 0x61, 0x85,
      0x50, 0xef, 0x7f, 0x19, 0xda, 0x8e, 0x94, 0x5b, 0x55, 0x5a] })).map (fun t => (t.offset, t.trunc))
      = some (10, 0x50EF7F19) := by decide

/-- 95 §4, T3: the last window, and the mask of bit 31. -/
theorem test_trunc_last_window :
    (nextOf (exec .trunc { running .trunc with digest := #v[0, 0, 0, 0, 0, 0, 0, 0, 0, 0, 0, 0, 0, 0, 0,
      0xFF, 0xFF, 0xFF, 0xFF, 0x0F] })).map (fun t => (t.offset, t.trunc)) = some (15, 0x7FFFFFFF) := by decide

/-- 95 §5, row 1, d = 6. -/
theorem test_modred_6 :
    (nextOf (exec (.modred 6) { running (.modred 6) with trunc := 0xFFFFFFFF })).map State.code = some 967295 := by decide

/-- 95 §5, row 1, d = 10: the modulus is above every word. -/
theorem test_modred_10 :
    (nextOf (exec (.modred 10) { running (.modred 10) with trunc := 0xFFFFFFFF })).map State.code = some 0xFFFFFFFF := by
  decide

/-- 95 §6, row 11. -/
theorem test_tstep_quotient :
    (nextOf (exec .tstep { running .tstep with epoch := 0xFFFFFFFFFFFFFFFF })).map State.ctr
      = some 614891469123651720 := by decide

/-- 95 §6, last row. -/
theorem test_tstep_zero_interval :
    (nextOf (exec .tstep { State.reset with interval := 0, ctr := 7 })).map (fun t => (t.statusWord, t.ctr))
      = some (0x00000304, 7) := by decide

/-- 95 §3.3, HC1: the greatest offset. -/
theorem test_hotp_code :
    (nextOf (exec (.hotp 6) { keyed (.hotp 6) with ctr := 281 })).map (fun t => (t.offset, t.trunc, t.code, t.ctr))
      = some (15, 0x1F7CC0BA, 269498, 281) := by decide +kernel

/-- 95 §3.3, HC9. -/
theorem test_hotp_checks_digits_first :
    (nextOf (exec (.hotp 5) { State.reset with keylen := 257 })).map State.statusWord = some 0x00000204 := by decide

/-- 95 §7, row 1, with TC6: the old CTR is not used. -/
theorem test_totp_code :
    (nextOf (exec (.totp 8) { keyed (.totp 8) with epoch := 59, ctr := 12345 })).map (fun t => (t.ctr, t.code))
      = some (1, 94287082) := by decide +kernel

/-- 95 §7, TC4. -/
theorem test_totp_checks_interval_before_keylen :
    (nextOf (exec (.totp 6) { State.reset with interval := 0, keylen := 257 })).map State.statusWord
      = some 0x00000304 := by decide

/-! ### The port -/

/-- 95 §8.5, step 1: a locked write while BUSY = 1. -/
theorem test_busy_write_is_dropped :
    (nextOf (step { running (.hotp 6) with script := [memWrite Config.default 0x024 5] })).map
      (fun t => (t.statusWord, t.ctr)) = some (0x00000009, 0) := by decide

/-- 95 §8.5, step 2: a CMD write while BUSY = 1. -/
theorem test_busy_command_is_dropped :
    (nextOf (step { running (.hotp 6) with cmdLast := 0x606, script := [memWrite Config.default 0x010 0x806] })).map
      (fun t => (t.statusWord, t.cmdLast, t.pending)) = some (0x00000009, 0x606, some (.hotp 6)) := by decide

/-- 95 §8.5, step 9: a read-only word is not locked. -/
theorem test_busy_read_only_write_is_ignored :
    (nextOf (step { running (.hotp 6) with script := [memWrite Config.default 0x03C 7] })).map State.statusWord
      = some 0x00000001 := by decide

/-- 95 §8.5, step 7: a one clears DONE and leaves OVR. -/
theorem test_status_write_one_clears :
    (nextOf (step { writing 0x00C 0x2 with done := true, ovr := true })).map State.statusWord = some 0x00000008 := by decide

/-- 95 §8.6: an error raises `irq` in the same access. -/
theorem test_error_raises_irq :
    (nextOf (step { writing 0x010 0x906 with ie := true })).map (fun t => (t.statusWord, t.irq))
      = some (0x00000204, true) := by decide

/-- 95 §Notation: KEY0 of K20 puts its most significant byte first (R76). -/
theorem test_key_write_is_big_endian :
    (nextOf (step (writing 0x100 0x31323334))).map State.key = some [(0, 0x31), (1, 0x32), (2, 0x33), (3, 0x34)] := by
  decide

/-- 95 §8.4: INTERVAL_LO after reset. -/
theorem test_reset_interval_reads_30 : (nextOf (step (reading 0x034))).map State.rdata = some (some 0x1E) := by decide

/-- 95 §8.7, rows 1, 2 and 4. -/
theorem test_bus_errors :
    step (withEvent (.read 0x041 .w32)) = .fault .misaligned ∧ step (withEvent (.write 0x010 .w16 0x0606)) = .fault .badWidth ∧
    step (withEvent (.read 0x1000 .w32)) = .fault .outsideWindow := ⟨rfl, rfl, rfl⟩

/-- The word that `withFetchWord` places runs as the very next step. -/
theorem test_withFetchWord_runs :
    (nextOf (step (State.reset.withFetchWord 32 0x00000707))).map State.pending = some (some (.totp 7)) := by decide

/-- 30_encoding.md R111 and 95 §9, P1: the writes of `ldkey` for a string of 5 bytes, the last word padded. -/
theorem test_assemble_ldkey :
    (AsmLine.ldkey [0x31, 0x32, 0x33, 0x34, 0x35]).assemble Config.default
      = some [memWrite Config.default 0x100 0x31323334, memWrite Config.default 0x104 0x35000000,
          memWrite Config.default 0x014 5] := by decide

/-- 30_encoding.md R109: an omitted digit count is 6, and one above 15 is refused. -/
theorem test_assemble_hotp :
    (AsmLine.hotp none).assemble Config.default = some [memWrite Config.default 0x010 0x00000606] ∧
    (AsmLine.hotp (some 16)).assemble Config.default = none := by decide

/-! ### Witnesses -/

theorem witness_DecodeOfEncodeIsTheCommand : WellFormed .nop ∧ WellFormed (.modred 0) ∧ WellFormed (.totp 15) := by decide

theorem witness_CommandWordIsUnique : decode 0x00000F07 = .command (.totp 15) := by decide

theorem witness_CmdWriteRunsTheDecodedCommand : ∃ (s : State) (w : Word) (i : Instr) (es : List PortEvent),
    s.script = .write (s.config.base + 0x010) .w32 w :: es ∧ s.rst = false ∧ s.pending = none ∧ decode w = .command i :=
  ⟨writing 0x010 0x606, 0x606, .hotp 6, [], by decide⟩

theorem witness_CompletionTurnRunsThePendingCommand : ∃ (s t : State) (i : Instr) (es : List PortEvent),
    s.pending = some i ∧ s.script = .tick :: es ∧ t.pending = some i ∧ t.script = [] :=
  ⟨{ running .tstep with script := [.tick] }, running .tstep, .tstep, [], by decide⟩

/-- The three kinds of illegal word, each at its least value. -/
theorem witness_IllegalWordRaisesIllegal : ∀ w ∈ [(0x1000 : Word), 0x008, 0x105],
    (writing 0x010 w).script = [.write ((writing 0x010 w).config.base + 0x010) .w32 w] ∧
    (writing 0x010 w).rst = false ∧ (writing 0x010 w).pending = none ∧
    (w.toNat / 4096 ≠ 0 ∨ 8 ≤ w.toNat % 256 ∨
      (w.toNat / 256 % 16 ≠ 0 ∧ w.toNat % 256 ∈ [0x00, 0x01, 0x02, 0x03, 0x05])) := by
  intro w h
  simp only [List.mem_cons, List.not_mem_nil, or_false] at h
  rcases h with rfl | rfl | rfl <;> exact ⟨rfl, rfl, rfl, by decide⟩

/-- An illegal word to an idle block, a legal one, and any word to a busy one. -/
theorem witness_CmdWriteIsTheAcceptanceStep : ∃ (s : State) (w : Word) (t : State) (v : Word) (u : State) (x : Word),
    (s.script = [.write (s.config.base + 0x010) .w32 w] ∧ s.rst = false ∧ s.busy = false ∧
      decode w = .illegal .reservedBits) ∧
    (t.script = [.write (t.config.base + 0x010) .w32 v] ∧ t.rst = false ∧ t.busy = false ∧
      decode v = .command (.hotp 6)) ∧
    (u.script = [.write (u.config.base + 0x010) .w32 x] ∧ u.rst = false ∧ u.busy = true) :=
  ⟨writing 0x010 0x1000, 0x1000, writing 0x010 0x606, 0x606, { writing 0x010 0x606 with pending := some .nop }, 0x606,
    by decide⟩

/-- Idle states for which the check gives no error, and each error but ILLEGAL. -/
theorem witness_AcceptanceFollowsTheCheckOrder : State.reset.pending = none ∧
    acceptanceCheck (.hotp 6) State.reset = none ∧ acceptanceCheck (.hotp 9) State.reset = some .digits ∧
    acceptanceCheck .tstep { State.reset with interval := 0 } = some .interval ∧
    acceptanceCheck .hmac { State.reset with keylen := 257 } = some .keylen ∧
    acceptanceCheck .hmac { State.reset with msglen := 65 } = some .msglen := by decide

/-- Lengths one above each buffer's size. -/
theorem witness_AcceptanceFollows_lengths : ∃ s t : State,
    (s.pending = none ∧ s.config.keyMax < s.keylen.toNat ∧ s.interval ≠ 0 ∧ (6 : Nat) ≤ 6 ∧ (8 : Nat) ≤ 8) ∧
    (t.pending = none ∧ t.keylen.toNat ≤ t.config.keyMax ∧ t.config.msgMax < t.msglen.toNat) :=
  ⟨{ State.reset with keylen := 257 }, { State.reset with keylen := 256, msglen := 65 }, by decide⟩

theorem witness_BadDigitCountRaisesDigits : State.reset.pending = none ∧ ((5 : Nat) < 6 ∨ 8 < 5) ∧ ((9 : Nat) < 6 ∨ 8 < 9) := by
  decide

theorem witness_ZeroIntervalRaisesInterval : ∃ s : State, s.pending = none ∧ s.interval = 0 ∧ (6 : Nat) ≤ 6 ∧ (8 : Nat) ≤ 8 :=
  ⟨{ State.reset with interval := 0 }, by decide⟩

theorem witness_NopCompletes : ∃ s : State, s.pending = some .nop := ⟨running .nop, rfl⟩
theorem witness_EncCtrCompletes : ∃ s : State, s.pending = some .encCtr := ⟨running .encCtr, rfl⟩

theorem witness_HmacCompletes : ∃ (s : State) (k m : List Byte), s.pending = some .hmac ∧
    k.length = s.keylen.toNat ∧ s.key.Holds k ∧ m.length = s.msglen.toNat ∧ s.msg.Holds m :=
  ⟨{ keyed .hmac with msg := buffer [0x48, 0x69], msglen := 2 }, k20, [0x48, 0x69], rfl, rfl,
    by unfold Memory.Holds; decide, rfl, by unfold Memory.Holds; decide⟩

theorem witness_HmacCompletesOnUnwrittenBytes : ∃ s : State, s.pending = some .hmac ∧ s.keylen.toNat = 20 ∧ s.key = [] :=
  ⟨{ running .hmac with keylen := 20 }, by decide⟩

theorem witness_TruncCompletes : ∃ s : State, s.pending = some .trunc := ⟨running .trunc, rfl⟩

theorem witness_ModredCompletes : (running (.modred 0)).pending = some (.modred 0) ∧
    (running (.modred 15)).pending = some (.modred 15) := by decide

theorem witness_TstepCompletes : ∃ s : State, s.pending = some .tstep ∧ s.interval ≠ 0 := ⟨running .tstep, by decide⟩

theorem witness_HotpCompletes : ∃ (s : State) (d : Nat) (k : List Byte), s.pending = some (.hotp d) ∧
    k.length = s.keylen.toNat ∧ s.key.Holds k :=
  ⟨keyed (.hotp 6), 6, k20, rfl, rfl, by unfold Memory.Holds; decide⟩

theorem witness_TotpCompletes : ∃ (s : State) (d : Nat) (k : List Byte), s.pending = some (.totp d) ∧ s.interval ≠ 0 ∧
    k.length = s.keylen.toNat ∧ s.key.Holds k :=
  ⟨keyed (.totp 8), 8, k20, rfl, by decide, rfl, by unfold Memory.Holds; decide⟩

theorem witness_CodesCompleteOnUnwrittenKeys : ∃ s t : State,
    (s.pending = some (.hotp 6) ∧ s.key = [] ∧ s.keylen.toNat = 20) ∧
    (t.pending = some (.totp 6) ∧ t.interval ≠ 0 ∧ t.key = [] ∧ t.keylen.toNat = 20) :=
  ⟨{ running (.hotp 6) with keylen := 20 }, { running (.totp 6) with keylen := 20 }, by decide⟩

theorem witness_AcceptedCommandsCompleteWithoutError : ∃ (i : Instr) (s : State), s.pending = some i :=
  ⟨.hotp 6, running (.hotp 6), rfl⟩

/-- An idle state with K20 loaded, at each of the three digit counts. -/
theorem witness_HotpIsItsFourStages : ∃ s : State, s.config.Legal ∧ s.rst = false ∧ s.pending = none ∧
    s.keylen.toNat ≤ s.config.keyMax ∧ (∀ d ∈ [6, 7, 8], d = 6 ∨ d = 7 ∨ d = 8) ∧ s.key.Written s.keylen.toNat :=
  ⟨{ State.reset with key := buffer k20, keylen := 20 }, by decide, rfl, rfl, by decide, by decide,
    by unfold Memory.Written; decide⟩

theorem witness_TotpIsItsFiveStages : ∃ s : State, s.config.Legal ∧ s.rst = false ∧ s.pending = none ∧
    s.keylen.toNat ≤ s.config.keyMax ∧ (∀ d ∈ [6, 7, 8], d = 6 ∨ d = 7 ∨ d = 8) ∧ s.interval ≠ 0 ∧
    s.key.Written s.keylen.toNat :=
  ⟨{ State.reset with key := buffer k20, keylen := 20 }, by decide, rfl, rfl, by decide, by decide, by decide,
    by unfold Memory.Written; decide⟩

/-- Two states with the same key bytes, the second with another byte behind them and another EPOCH. -/
theorem witness_HotpDependsOnKeyCounterAndDigitsOnly : ∃ (s t : State) (d : Nat),
    s.pending = some (.hotp d) ∧ t.pending = some (.hotp d) ∧ s.keylen = t.keylen ∧ s.ctr = t.ctr ∧
    s.key.Written s.keylen.toNat ∧ (∀ a, a < s.keylen.toNat → s.key.get? a = t.key.get? a) ∧ s ≠ t :=
  ⟨keyed (.hotp 6), { keyed (.hotp 6) with key := buffer (k20 ++ [0xFF]), epoch := 1 }, 6, rfl, rfl, rfl, rfl,
    by unfold Memory.Written; decide, by decide, by decide⟩

/-- The first and the last second of step 1. -/
theorem witness_TotpIsConstantWithinAnInterval : ∃ (s t : State) (d : Nat),
    s.pending = some (.totp d) ∧ t.pending = some (.totp d) ∧ s.interval = t.interval ∧ s.interval ≠ 0 ∧
    s.epoch.toNat / s.interval.toNat = t.epoch.toNat / t.interval.toNat ∧ s.keylen = t.keylen ∧
    s.key.Written s.keylen.toNat ∧ (∀ a, a < s.keylen.toNat → s.key.get? a = t.key.get? a) ∧ s.epoch ≠ t.epoch :=
  ⟨{ keyed (.totp 6) with epoch := 30 }, { keyed (.totp 6) with epoch := 59 }, 6, rfl, rfl, rfl, by decide, by decide, rfl,
    by unfold Memory.Written; decide, by decide, by decide⟩

theorem witness_PollingDoesNotChangeTheResult : ∃ (s : State) (i : Instr), s.rst = false ∧ s.pending = none ∧ WellFormed i ∧
    acceptanceCheck i s = none := ⟨State.reset, .hotp 6, by decide⟩

theorem witness_CounterEncodingIsABijection : (List.replicate 8 (0xFF : Byte)).length = 8 := by decide

/-- Keys of 63, 64 and 65 bytes. -/
theorem witness_HmacKeyPreparation : (List.replicate 63 (0x01 : Byte)).length < 64 ∧
    (List.replicate 64 (0x01 : Byte)).length ≤ 64 ∧ 64 < (List.replicate 65 (0x01 : Byte)).length := by decide

/-- Two digests that differ in the upper nibble of byte 19 only. -/
theorem witness_TruncationSelectsTheWindow : ∃ dg dg' : Digest, (∀ i (h : i < 19), dg[i] = dg'[i]) ∧
    (dg[19]).toNat % 16 = (dg'[19]).toNat % 16 ∧ dg ≠ dg' :=
  ⟨Vector.replicate 20 0x0F, (Vector.replicate 20 0x0F).set 19 0xFF, by decide, by decide, by decide⟩

theorem witness_ReductionIsTheRemainder : (10 : Nat) ≤ 10 := by decide

theorem witness_TimeCounterIsTheQuotient : (30 : BitVec 64) ≠ 0 ∧ (29 : BitVec 64).toNat < (30 : BitVec 64).toNat := by decide

/-- Every offset of the list is one that a read can have. -/
theorem witness_RegisterReadsAnswerTheMap : ∀ off ∈ [0x000, 0x004, 0x008, 0x00C, 0x010, 0x014, 0x018, 0x020, 0x024, 0x028,
    0x02C, 0x030, 0x034, 0x038, 0x03C, 0x040, 0x050, 0x054, 0x058, 0x05C, 0x060],
    (reading off).script = [.read ((reading off).config.base + off) .w32] ∧ (reading off).rst = false := by decide

theorem witness_ParamHoldsTheBufferSizes : (Config.mk 64 8 0).Legal ∧ (Config.mk 256 64 0xFFFF000).Legal := by decide

theorem witness_StatusBits : (31 : Nat) < 32 := by decide

/-- The last word of each buffer, and MSG15 with its four bytes written. -/
theorem witness_BufferReads : ∃ s t : State, s.rst = false ∧ t.rst = false ∧
    s.script = [.read (s.config.base + (0x100 + 4 * 63)) .w32] ∧
    (4 * 15 < t.config.msgMax ∧ t.script = [.read (t.config.base + (0x200 + 4 * 15)) .w32] ∧
      t.msg.get? (4 * 15) = some 1 ∧ t.msg.get? (4 * 15 + 1) = some 2 ∧ t.msg.get? (4 * 15 + 2) = some 3 ∧
      t.msg.get? (4 * 15 + 3) = some 4) :=
  ⟨reading 0x1FC, { reading 0x23C with msg := [(60, 1), (61, 2), (62, 3), (63, 4)] }, by decide⟩

/-- The first and the last word of the window. -/
theorem witness_ReadsHaveNoSideEffects : ∀ off ∈ [0x000, 0xFFC], off < 4096 ∧ off % 4 = 0 ∧
    (reading off).script = [.read ((reading off).config.base + off) .w32] ∧ (reading off).rst = false := by decide

/-- A read of KEY0 while HOTP is in flight, the completion of a command that does not read KEY, and a bus error and an
access during reset while HMAC is in flight. -/
theorem witness_KeyStaysInTheBlock : ∃ s1 t1 s2 t2 s3 s4 : State,
    ((CompletionTurn s1 → ∀ i, s1.pending = some i → readsKey i = false) ∧ step s1 = .next t1 ∧
      s1.pending = some (.hotp 6)) ∧
    ((CompletionTurn s2 → ∀ i, s2.pending = some i → readsKey i = false) ∧ step s2 = .next t2 ∧ CompletionTurn s2 ∧
      s2.pending ≠ t2.pending) ∧
    ((CompletionTurn s3 → ∀ i, s3.pending = some i → readsKey i = false) ∧ step s3 = .fault .misaligned ∧
      s3.pending = some .hmac) ∧
    ((CompletionTurn s4 → ∀ i, s4.pending = some i → readsKey i = false) ∧ step s4 = .refused .accessDuringReset) := by
  refine ⟨{ reading 0x100 with pending := some (.hotp 6) }, _, running .tstep, _,
    { reading 0x101 with pending := some .hmac }, { reading 0x100 with rst := true },
    ⟨?_, rfl, rfl⟩, ⟨?_, rfl, .inl rfl, by decide⟩, ⟨?_, rfl, rfl⟩, ⟨?_, rfl⟩⟩
  · rintro (h | ⟨_, h⟩) <;> cases h
  · rintro - i h
    cases h
    rfl
  · rintro (h | ⟨_, h⟩) <;> cases h
  · rintro (h | ⟨_, h⟩) <;> cases h

theorem witness_OperandWrites : ∀ off ∈ [0x014, 0x018, 0x038],
    (writing off 0xFFFFFFFF).script = [.write ((writing off 0xFFFFFFFF).config.base + off) .w32 0xFFFFFFFF] ∧
    (writing off 0xFFFFFFFF).rst = false ∧ (writing off 0xFFFFFFFF).pending = none := by decide

theorem witness_HalfWritesKeepTheOtherHalf : ∀ off ∈ [0x020, 0x024, 0x028, 0x02C, 0x030, 0x034],
    (writing off 5).script = [.write ((writing off 5).config.base + off) .w32 5] ∧
    (writing off 5).rst = false ∧ (writing off 5).pending = none := by decide

/-- The first and the last KEY word. -/
theorem witness_KeyWordWriteStoresFourBytes : ∀ k ∈ [0, 63], k < 64 ∧ 4 * k < (writing (0x100 + 4 * k) 5).config.keyMax ∧
    (writing (0x100 + 4 * k) 5).script = [.write ((writing (0x100 + 4 * k) 5).config.base + (0x100 + 4 * k)) .w32 5] ∧
    (writing (0x100 + 4 * k) 5).rst = false ∧ (writing (0x100 + 4 * k) 5).pending = none := by decide

/-- The first and the last MSG word. -/
theorem witness_MsgWordWriteStoresFourBytes : ∀ k ∈ [0, 15], k < 16 ∧ 4 * k < (writing (0x200 + 4 * k) 5).config.msgMax ∧
    (writing (0x200 + 4 * k) 5).script = [.write ((writing (0x200 + 4 * k) 5).config.base + (0x200 + 4 * k)) .w32 5] ∧
    (writing (0x200 + 4 * k) 5).rst = false ∧ (writing (0x200 + 4 * k) 5).pending = none := by decide

/-- The ends of every reserved range and of the read-only words. -/
theorem witness_ReservedOffsets_of_the_map :
    ∀ off ∈ [0x01C, 0x044, 0x04C, 0x064, 0x0FC, 0x240, 0xFFC, 0x000, 0x060], off < 4096 ∧ off % 4 = 0 ∧
      (reading off).script = [.read ((reading off).config.base + off) .w32] ∧ (reading off).rst = false ∧
      (writing off 5).script = [.write ((writing off 5).config.base + off) .w32 5] ∧ (writing off 5).rst = false := by decide

/-- With the least parameters, the first words beyond them. -/
theorem witness_ReservedOffsetsReadZeroIgnoreWrites : ∃ s t : State, s.rst = false ∧ t.rst = false ∧
    (s.pending = none ∧ 0x100 ≤ 0x140 ∧ 0x140 < 0x200 ∧ s.config.keyMax ≤ 0x140 - 0x100) ∧
    s.script = [.write (s.config.base + 0x140) .w32 5] ∧
    (t.pending = none ∧ 0x200 ≤ 0x208 ∧ 0x208 < 0x240 ∧ t.config.msgMax ≤ 0x208 - 0x200) ∧
    t.script = [.read (t.config.base + 0x208) .w32] :=
  ⟨{ writing 0x140 5 with config := Config.mk 64 8 0 }, { reading 0x208 with config := Config.mk 64 8 0 }, by decide⟩

theorem witness_ControlAndStatusWrites : ∀ off ∈ [0x008, 0x00C],
    (writing off 0xFFFFFFFF).script = [.write ((writing off 0xFFFFFFFF).config.base + off) .w32 0xFFFFFFFF] ∧
    (writing off 0xFFFFFFFF).rst = false := by decide

/-- Locked words at the ends of each range, with a command pending. -/
theorem witness_BusyLockDropsWrites : ∀ off ∈ [0x010, 0x038, 0x100, 0x1FC, 0x200, 0x23C], ∃ s : State,
    s.script = [.write (s.config.base + off) .w32 5] ∧ s.rst = false ∧ s.pending ≠ none ∧
    (off ∈ [0x010, 0x014, 0x018, 0x020, 0x024, 0x028, 0x02C, 0x030, 0x034, 0x038] ∨
      (0x100 ≤ off ∧ off < 0x240 ∧ off % 4 = 0)) := by
  intro off h
  refine ⟨{ writing off 5 with pending := some .nop }, ?_⟩
  revert off
  decide

/-- One access for each clause, at the edge: below and above the window, 16 bits wide, and one byte off a word. -/
theorem witness_BadAccessesFault : ∃ s1 s2 s3 s4 : State,
    (s1.rst = false ∧ s1.config.base % 4096 = 0 ∧ s1.script = [.read (s1.config.base - 1) .w32] ∧
      s1.config.base - 1 < s1.config.base) ∧
    (s2.rst = false ∧ s2.config.base % 4096 = 0 ∧ s2.script = [.write (s2.config.base + 4096) .w32 5]) ∧
    (s3.rst = false ∧ s3.config.base % 4096 = 0 ∧ s3.script = [.write (s3.config.base + 0x010) .w16 5]) ∧
    (s4.rst = false ∧ s4.config.base % 4096 = 0 ∧ s4.script = [.read (s4.config.base + 0x041) .w32] ∧
      (s4.config.base + 0x041) % 4 ≠ 0) :=
  ⟨{ withEvent (.read 0xFFF .w32) with config := Config.mk 256 64 0x1000 }, withEvent (.write 0x1000 .w32 5),
    withEvent (.write 0x010 .w16 5), withEvent (.read 0x041 .w32), by decide⟩

/-- Accesses bad in more ways than one: one byte above the window, misaligned and 8 bits wide, and in the window,
misaligned and 16 bits wide. -/
theorem witness_BadAccesses_in_two_ways : ∃ s1 s2 : State,
    (s1.rst = false ∧ s1.config.base % 4096 = 0 ∧ s1.script = [.read (s1.config.base + 4097) .w8] ∧
      s1.config.base + 4096 ≤ s1.config.base + 4097) ∧
    (s2.rst = false ∧ s2.config.base % 4096 = 0 ∧ s2.script = [.write (s2.config.base + 0xFFF) .w16 5] ∧
      s2.config.base + 0xFFF < s2.config.base + 4096 ∧ (Width.w16 : Width) ≠ .w32) :=
  ⟨withEvent (.read 4097 .w8), withEvent (.write 0xFFF .w16 5), by decide⟩

theorem witness_RstGivesTheResetValues : ∃ s t u : State, s.script = [.rst true] ∧ s.pending ≠ none ∧
    t.script = [.rst false] ∧ u.rst = true ∧ u.script = [.read 0x000 .w32] :=
  ⟨{ running .nop with script := [.rst true] }, withEvent (.rst false), { withEvent (.read 0x000 .w32) with rst := true },
    by decide⟩

theorem witness_IrqIsEnableAndDoneOrErr : ∃ s : State, StatusOk s ∧ s.busy = true ∧ s.ie = true :=
  ⟨{ running .nop with ie := true }, by unfold StatusOk; decide, by decide, by decide⟩

theorem witness_Inv : Inv (running (.hotp 6)) where
  legal := by decide
  status := by unfold StatusOk; decide
  buffers := by unfold BuffersOk; decide
  pending := by
    intro i h
    cases h
    decide
  reset := by
    intro h
    cases h

theorem witness_StepKeepsTheInvariant : ∃ s t : State, Inv s ∧ step s = .next t ∧ s ≠ t :=
  ⟨running (.hotp 6), _, witness_Inv, rfl, fun h => by cases congrArg State.done h⟩

/-- A dropped write: the command stays pending. -/
theorem witness_OperandsHoldUntilCompletion : ∃ s t : State, s.pending ≠ none ∧ t.pending = s.pending ∧
    step s = .next t ∧ s ≠ t :=
  ⟨{ writing 0x024 5 with pending := some .nop }, { running .nop with ovr := true }, by decide, rfl, rfl, by decide⟩

/-- A completion that changes CODE, one that changes OFFSET, one that changes CTR, and host writes of both halves of
CTR. -/
theorem witness_ResultsChangeOnlyAtCompletion : ∃ s1 t1 s2 t2 s3 t3 s4 t4 s5 t5 : State,
    (step s1 = .next t1 ∧ s1.script = [] ∧ t1.code ≠ s1.code) ∧
    (step s2 = .next t2 ∧ s2.script = [.tick] ∧ t2.offset ≠ s2.offset) ∧
    (step s3 = .next t3 ∧ s3.script = [] ∧ t3.ctr ≠ s3.ctr ∧ s3.pending ≠ none) ∧
    (step s4 = .next t4 ∧ s4.script = [.write (s4.config.base + 0x020) .w32 5] ∧ t4.ctr ≠ s4.ctr) ∧
    (step s5 = .next t5 ∧ s5.script = [.write (s5.config.base + 0x024) .w32 5] ∧ t5.ctr ≠ s5.ctr) :=
  ⟨{ running (.modred 6) with trunc := 42 }, { State.reset with trunc := 42, code := 42, done := true },
    { running .trunc with digest := Vector.replicate 20 1, script := [.tick] },
    { State.reset with digest := Vector.replicate 20 1, offset := 1, trunc := 0x01010101, done := true },
    { running .tstep with epoch := 59 }, { State.reset with epoch := 59, ctr := 1, done := true },
    writing 0x020 5, { State.reset with ctr := 0x500000000 }, writing 0x024 5, { State.reset with ctr := 5 },
    ⟨rfl, rfl, by decide⟩, ⟨rfl, rfl, by decide⟩, ⟨rfl, rfl, by decide, by decide⟩, ⟨rfl, rfl, by decide⟩,
    ⟨rfl, rfl, by decide⟩⟩

/-- A completion that changes DIGEST, that of HMAC with the empty key and message. -/
theorem witness_ResultsChange_digest :
    (running .hmac).script = [] ∧
    (nextOf (step (running .hmac))).map (fun t => t.digest == State.reset.digest) = some false :=
  ⟨rfl, by decide +kernel⟩

theorem witness_RunsEndWithNothingPending : ∃ s t : State, run (s.script.length + 1) s = .next t ∧ s.pending ≠ t.pending :=
  ⟨running .tstep, { State.reset with done := true }, rfl, by decide⟩

/-- A host that resets the block, waits, and reads STATUS. -/
theorem witness_WellBehavedHostsNeverFault : ∃ s : State, WellBehaved s.config s.rst s.script ∧ s.script.length = 4 :=
  ⟨{ State.reset with script := [.rst true, .tick, .rst false, memRead Config.default 0x00C] },
    ⟨rfl, by decide, trivial⟩, rfl⟩

theorem witness_EncodedCounterReadsAsItsHalves : State.reset.config.Legal ∧ State.reset.rst = false ∧
    State.reset.pending = none := by decide

/-- A string whose last word needs padding. -/
theorem witness_LdkeyLoadsTheKey : ∃ (s : State) (bs : List Byte) (es : List PortEvent), s.config.Legal ∧ s.rst = false ∧
    s.pending = none ∧ (AsmLine.ldkey bs).assemble s.config = some es ∧ s.script = es :=
  ⟨{ State.reset with script := asmLoadBytes Config.default 0x100 0x014 [0x31, 0x32, 0x33, 0x34, 0x35] },
    [0x31, 0x32, 0x33, 0x34, 0x35], _, by decide, rfl, rfl, rfl, rfl⟩

end Sys2Proof.Tests
end

section
/-! PROOFS. PARAM as a number (R32), and the words of the window whose writes are ignored or whose reads answer 0 (R72,
R74). -/

namespace Sys2Proof.Machine

/-! ### PARAM -/

/-- PARAM as a number, for parameters that fit its fields (R32). -/
theorem paramWord_toNat (c : Config) (hk : c.keyMax < 2 ^ 16) (hm : c.msgMax < 2 ^ 16) :
    (paramWord c).toNat = c.msgMax * 65536 + c.keyMax := by
  have shifted : ((BitVec.ofNat 16 c.msgMax).setWidth 32 <<< 16).toNat = 2 ^ 16 * c.msgMax := by
    simp only [BitVec.toNat_shiftLeft, BitVec.toNat_setWidth, BitVec.toNat_ofNat, Nat.shiftLeft_eq]
    omega
  have low : ((BitVec.ofNat 16 c.keyMax).setWidth 32).toNat = c.keyMax := by
    simp only [BitVec.toNat_setWidth, BitVec.toNat_ofNat]
    omega
  rw [paramWord, BitVec.toNat_or, shifted, low, ← Nat.two_pow_add_eq_or_of_lt hk]
  omega

/-- Settles O37: the ranges of R7 fit the two fields of PARAM. -/
theorem paramHoldsTheBufferSizes : Obligations.ParamHoldsTheBufferSizes := by
  refine ⟨fun c ⟨⟨_, _, hk⟩, ⟨_, _, hm⟩, _⟩ => ?_, by decide⟩
  exact paramWord_toNat c (by omega) (by omega)

/-! ### The map of the window -/

/-- The reserved offsets of the window (R72). -/
abbrev ReservedOffset (off : Nat) : Prop :=
  off = 0x01C ∨ (0x044 ≤ off ∧ off ≤ 0x04C) ∨ (0x064 ≤ off ∧ off ≤ 0x0FC) ∨ 0x240 ≤ off

theorem regAt_of_reservedOffset {off : Nat} (h : ReservedOffset off) : regAt off = .reserved := by
  have unlisted : regMap.lookup off = none := by
    simp only [List.lookup_eq_none_iff, regMap, List.mem_cons, List.not_mem_nil, or_false, forall_eq_or_imp, forall_eq,
      bne_iff_ne]
    omega
  rw [regAt, if_neg (by omega), if_neg (by omega), unlisted]
  rfl

theorem regAt_keyWord {k : Nat} (h : k < 64) : regAt (0x100 + 4 * k) = .key k := by
  rw [regAt, if_pos (by omega)]
  congr 1
  omega

theorem regAt_msgWord {k : Nat} (h : k < 16) : regAt (0x200 + 4 * k) = .msg k := by
  rw [regAt, if_neg (by omega), if_pos (by omega)]
  congr 1
  omega

/-! ### Words that ignore writes -/

/-- The words whose writes are ignored, busy or not: the RO registers and the reserved offsets (R72, R74). -/
def Reg.ignoresWrites : Reg → Bool
  | .id | .param | .offset | .code | .digest _ | .reserved => true
  | _ => false

/-- The RO registers of the map (R72). -/
theorem regAt_readOnly_ignoresWrites :
    ∀ off ∈ [0x000, 0x004, 0x03C, 0x040, 0x050, 0x054, 0x058, 0x05C, 0x060], (regAt off).ignoresWrites = true := by
  decide

/-- Such a word is outside the BUSY lock, so a write of it does not set OVR either (R266). -/
theorem hostWrite_of_ignoresWrites {r : Reg} (h : r.ignoresWrites = true) (w : Word) (s : State) :
    hostWrite r w s = .next s := by
  have ⟨unlocked, unchanged⟩ : r.locked = false ∧ storeReg r w s = s :=
    match r, h with
    | .id, _ | .param, _ | .offset, _ | .code, _ | .digest _, _ | .reserved, _ => ⟨rfl, rfl⟩
  rw [hostWrite_of_unlocked unlocked, unchanged]

theorem hostWrite_keyWord_beyond {k : Nat} {s : State} (h : s.config.keyMax ≤ 4 * k) (hp : s.pending = none) (w : Word) :
    hostWrite (.key k) w s = .next s := by
  rw [hostWrite_of_idle hp (by simp), storeReg, if_neg (by omega)]

theorem hostWrite_msgWord_beyond {k : Nat} {s : State} (h : s.config.msgMax ≤ 4 * k) (hp : s.pending = none) (w : Word) :
    hostWrite (.msg k) w s = .next s := by
  rw [hostWrite_of_idle hp (by simp), storeReg, if_neg (by omega)]

/-! ### Words that read 0 -/

theorem hostRead_reserved (s : State) : hostRead .reserved s = { s with rdata := some 0 } := rfl

/-- KEY is write-only: every word of it reads 0, below KEY_MAX too (R45). -/
theorem hostRead_keyWord (k : Nat) (s : State) : hostRead (.key k) s = { s with rdata := some 0 } := rfl

theorem hostRead_msgWord_beyond {k : Nat} {s : State} (h : s.config.msgMax ≤ 4 * k) :
    hostRead (.msg k) s = { s with rdata := some 0 } := by
  rw [hostRead, readReg, if_neg (by omega)]

/-! ### The statement -/

/-- The word of a buffer window that an aligned offset names. -/
theorem exists_word_of_aligned {start size off : Nat} (hs : start % 4 = 0) (h4 : off % 4 = 0) (h : start ≤ off)
    (h' : off < start + 4 * size) : ∃ k, k < size ∧ off = start + 4 * k :=
  ⟨(off - start) / 4, by omega, by omega⟩

/-- Settles O46: the word at each of these offsets, and what a read or a write of that word does. -/
theorem reservedOffsetsReadZeroIgnoreWrites : Obligations.ReservedOffsetsReadZeroIgnoreWrites := by
  intro s es off w ho h4 hr
  constructor
  · intro hoff hs
    rw [step_read hs hr ho h4]
    rcases hoff with hres | ⟨h1, h2, hk⟩ | ⟨h1, h2, hm⟩
    · rw [regAt_of_reservedOffset hres, hostRead_reserved]
    · obtain ⟨k, hk64, rfl⟩ := exists_word_of_aligned (size := 64) (by decide) h4 h1 h2
      rw [regAt_keyWord hk64, hostRead_keyWord]
    · obtain ⟨k, hk16, rfl⟩ := exists_word_of_aligned (size := 16) (by decide) h4 h1 h2
      rw [regAt_msgWord hk16, hostRead_msgWord_beyond (by simpa using hm)]
  · intro hoff hs
    rw [step_write hs hr ho h4]
    rcases hoff with hres | hro | ⟨hp, h1, h2, hk⟩ | ⟨hp, h1, h2, hm⟩
    · rw [regAt_of_reservedOffset hres, hostWrite_of_ignoresWrites rfl]
    · exact hostWrite_of_ignoresWrites (regAt_readOnly_ignoresWrites off hro) _ _
    · obtain ⟨k, hk64, rfl⟩ := exists_word_of_aligned (size := 64) (by decide) h4 h1 h2
      rw [regAt_keyWord hk64, hostWrite_keyWord_beyond (by simpa using hk) (by exact hp)]
    · obtain ⟨k, hk16, rfl⟩ := exists_word_of_aligned (size := 16) (by decide) h4 h1 h2
      rw [regAt_msgWord hk16, hostWrite_msgWord_beyond (by simpa using hm) (by exact hp)]

end Sys2Proof.Machine
end

section
/-! PROOFS. The invariant: it holds at reset and every step keeps it (R34, R45 to R47, R53, R235, R260). -/

namespace Sys2Proof.Machine

/-! ### Decoded commands are well-formed -/

theorem wellFormed_of_noDigits {i j : Instr} {d : BitVec 4} (hi : WellFormed i) (h : noDigits i d = .command j) :
    WellFormed j := by
  rw [noDigits] at h
  split at h
  · cases h
    exact hi
  · cases h

/-- A digit count comes from the 4-bit D field (R101). -/
theorem wellFormed_of_decodeOp {op : BitVec 8} {d : BitVec 4} {i : Instr} (h : decodeOp op d = .command i) :
    WellFormed i := by
  rw [decodeOp] at h
  split_ifs at h
  iterate 4 exact wellFormed_of_noDigits (by decide) h
  · cases h; exact d.isLt
  · exact wellFormed_of_noDigits (by decide) h
  · cases h; exact d.isLt
  · cases h; exact d.isLt

theorem wellFormed_of_decode {w : Word} {i : Instr} (h : decode w = .command i) : WellFormed i := by
  rw [decode] at h
  split at h
  · exact wellFormed_of_decodeOp h
  · cases h

/-! ### The check at acceptance -/

theorem digitsCheck_eq (d : Nat) : digitsCheck d = if ¬(d = 6 ∨ d = 7 ∨ d = 8) then some .digits else none := by
  rw [digitsCheck, ← ite_not]
  congr 1
  simp only [eq_iff_iff]
  omega

theorem firstError_cons_ite (p : Prop) [Decidable p] (k : ErrorCode) (rest : List (Option ErrorCode)) :
    firstError ((if p then some k else none) :: rest) = if p then some k else firstError rest := by
  split <;> rfl

/-- Each command's own list of checks is R232's one order. -/
theorem firstError_checksOf (i : Instr) (s : State) : firstError (checksOf i s) = acceptanceCheck i s := by
  cases i <;>
    simp [checksOf, acceptanceCheck, digitsCheck_eq, intervalCheck, keylenCheck, msglenCheck, firstError_cons_ite,
      firstError, validatesDigits, dividesByInterval, readsKey, Instr.digits]

/-- The errors raised have the codes 1 to 5 (R231). -/
theorem ErrorCode.code_raised {k : ErrorCode} (h : k ≠ .internal) : k.code ≠ 0 ∧ k.code.toNat ≤ 5 := by
  cases k with
  | internal => exact absurd rfl h
  | _ => decide

theorem acceptanceCheck_ne_internal {i : Instr} {s : State} {k : ErrorCode} (h : acceptanceCheck i s = some k) :
    k ≠ .internal := by
  rw [acceptanceCheck] at h
  split_ifs at h <;> cases h <;> decide

/-- Everything an acceptance can do (R263). -/
theorem accept_cases (i : Instr) (s : State) :
    (∃ k, k ≠ .internal ∧ accept i (checksOf i s) s = (s.present (encode i)).raiseError k) ∨
    (acceptanceCheck i s = none ∧ accept i (checksOf i s) s = (s.present (encode i)).setPending i) := by
  rw [accept, firstError_checksOf]
  rcases h : acceptanceCheck i s with _ | k
  · exact .inr ⟨rfl, rfl⟩
  · exact .inl ⟨k, acceptanceCheck_ne_internal h, rfl⟩

/-! ### The parts of the invariant -/

theorem ResetOk.of_released {s : State} (h : s.rst = false) : ResetOk s := fun hr => by simp [h] at hr

theorem ResetOk.of_asserted (s : State) : ResetOk s.assertReset := fun _ => rfl

/-- While `rst` is asserted nothing is in flight (R260). -/
theorem ResetOk.released_of_pending {s : State} {i : Instr} (h : ResetOk s) (hp : s.pending = some i) :
    s.rst = false := by
  refine Bool.eq_false_iff.mpr fun hr => ?_
  rw [← h hr] at hp
  cases hp

theorem PendingOk.of_idle {s : State} (h : s.pending = none) : PendingOk s := fun i hi => by simp [h] at hi

theorem BuffersOk.set_key {s : State} (h : BuffersOk s) {a : Nat} {bs : List Byte}
    (ha : a + bs.length ≤ s.config.keyMax) : BuffersOk { s with key := s.key.setBytes a bs } := by
  obtain ⟨hk, hkl, hm, hml⟩ := h
  exact ⟨Memory.wf_setBytes bs _ a hk, Memory.lt_setBytes bs _ _ a ha hkl, hm, hml⟩

theorem BuffersOk.set_msg {s : State} (h : BuffersOk s) {a : Nat} {bs : List Byte}
    (ha : a + bs.length ≤ s.config.msgMax) : BuffersOk { s with msg := s.msg.setBytes a bs } := by
  obtain ⟨hk, hkl, hm, hml⟩ := h
  exact ⟨hk, hkl, Memory.wf_setBytes bs _ a hm, Memory.lt_setBytes bs _ _ a ha hml⟩

/-- A byte of a word below a buffer's size is below that size too, for the sizes are multiples of 4 (R7). -/
theorem BuffersOk.storeReg {s : State} (hl : s.config.Legal) (h : BuffersOk s) (r : Reg) (w : Word) :
    BuffersOk (storeReg r w s) := by
  obtain ⟨⟨hk4, -⟩, ⟨hm4, -⟩, -⟩ := hl
  cases r with
  | key k =>
    rw [Machine.storeReg]
    split
    · exact h.set_key (by rw [wordBytes_length]; omega)
    · exact h
  | msg k =>
    rw [Machine.storeReg]
    split
    · exact h.set_msg (by rw [wordBytes_length]; omega)
    · exact h
  | status => rw [Machine.storeReg, writeStatus_eq]; exact h
  | _ => exact h

theorem BuffersOk.effectOf {s : State} (hl : s.config.Legal) (h : BuffersOk s) (i : Instr) :
    BuffersOk (effectOf i s) := by
  obtain ⟨-, ⟨-, hm8, -⟩, -⟩ := hl
  have hmsg : BuffersOk { s with msg := (Machine.effectOf i s).msg } := by
    rcases effectOf_msg i s with heq | ⟨c, heq⟩
    · rw [heq]; exact h
    · rw [heq]; exact h.set_msg (by rw [encodeCounter_length]; omega)
  simpa only [BuffersOk, effectOf_config, effectOf_key] using hmsg

/-- A write of STATUS keeps its rules: DONE and ERR are only cleared, and ERR with ERRCODE (R34). -/
theorem StatusOk.writeStatus {s : State} (h : StatusOk s) (w : Word) : StatusOk (writeStatus w s) := by
  obtain ⟨hbusy, hexcl, hcode, hmax⟩ := h
  rw [writeStatus_eq]
  refine ⟨fun hb => ?_, fun ⟨hd, he⟩ => hexcl ?_, ?_, ?_⟩
  · obtain ⟨hd, he⟩ := hbusy hb
    simp [hd, he]
  · simp only [Bool.and_eq_true] at hd he
    exact ⟨hd.1, he.1⟩
  · cases w.getLsbD 2
    · simpa using hcode
    · simp
  · dsimp only
    split
    · decide
    · exact hmax

theorem StatusOk.storeReg {s : State} (h : StatusOk s) (r : Reg) (w : Word) : StatusOk (storeReg r w s) := by
  cases r with
  | status => exact h.writeStatus w
  | key k => rw [Machine.storeReg]; split <;> exact h
  | msg k => rw [Machine.storeReg]; split <;> exact h
  | _ => exact h

/-- A write the BUSY lock lets through while a command is in flight changes none of its operands (R47, R266). -/
theorem storeReg_of_unlocked {r : Reg} (h : r.locked = false) (w : Word) (s : State) :
    storeReg r w s = { s with
      ie := (storeReg r w s).ie
      done := (storeReg r w s).done
      err := (storeReg r w s).err
      errcode := (storeReg r w s).errcode
      ovr := (storeReg r w s).ovr } := by
  cases r with
  | status => rw [Machine.storeReg, writeStatus_eq]
  | id | param | ctrl | offset | code | digest | reserved => rfl
  | _ => cases h

theorem PendingOk.storeReg {s : State} (h : PendingOk s) {r : Reg} (hr : s.busy = true → r.locked = false) (w : Word) :
    PendingOk (storeReg r w s) := by
  rcases hp : s.pending with _ | i
  · exact .of_idle ((storeReg_frame r w s).2.1.trans hp)
  · rw [storeReg_of_unlocked (hr (by simp [State.busy, hp]))]
    exact h

/-! ### What every kind of event keeps -/

theorem Inv.script {s : State} (h : Inv s) (es : List PortEvent) : Inv { s with script := es } where
  legal := h.legal
  status := h.status
  buffers := h.buffers
  pending := h.pending
  reset hr := congrArg (fun u : State => { u with script := es }) (h.reset hr)

theorem Inv.hostRead {s : State} (h : Inv s) (hr : s.rst = false) (r : Reg) : Inv (hostRead r s) where
  legal := h.legal
  status := h.status
  buffers := h.buffers
  pending := h.pending
  reset := .of_released hr

theorem Inv.setOvr {s : State} (h : Inv s) (hr : s.rst = false) : Inv s.setOvr where
  legal := h.legal
  status := h.status
  buffers := h.buffers
  pending := h.pending
  reset := .of_released hr

/-- A command word refused at an idle block sets ERR with a code of 1 to 5 (R230, R231). -/
theorem Inv.raiseError {s : State} (h : Inv s) (hr : s.rst = false) (hp : s.pending = none) (w : Word) {k : ErrorCode}
    (hk : k ≠ .internal) : Inv ((s.present w).raiseError k) where
  legal := h.legal
  status := by
    obtain ⟨hne, hle⟩ := ErrorCode.code_raised hk
    exact ⟨fun hb => by simp [State.busy, hp] at hb, fun hx => Bool.false_ne_true hx.1, iff_of_true hne rfl, hle⟩
  buffers := h.buffers
  pending := .of_idle hp
  reset := .of_released hr

theorem Inv.setPending {s : State} (h : Inv s) (hr : s.rst = false) (w : Word) {i : Instr} (hw : WellFormed i)
    (hc : acceptanceCheck i s = none) : Inv ((s.present w).setPending i) where
  legal := h.legal
  status := ⟨fun _ => ⟨rfl, rfl⟩, fun hx => Bool.false_ne_true hx.1, by simp, by simp⟩
  buffers := h.buffers
  pending j hj := by
    cases hj
    exact ⟨hw, hc⟩
  reset := .of_released hr

theorem Inv.accept {s : State} (h : Inv s) (hr : s.rst = false) (hp : s.pending = none) {i : Instr}
    (hw : WellFormed i) : Inv (accept i (checksOf i s) s) := by
  rcases accept_cases i s with ⟨k, hk, heq⟩ | ⟨hc, heq⟩
  · rw [heq]; exact h.raiseError hr hp _ hk
  · rw [heq]; exact h.setPending hr _ hw hc

theorem Inv.storeReg {s : State} (h : Inv s) (hr : s.rst = false) {r : Reg} (hlock : s.busy = true → r.locked = false)
    (w : Word) : Inv (storeReg r w s) := by
  obtain ⟨hconfig, -, -, -, -, -, hrst, -⟩ := storeReg_frame r w s
  exact {
    legal := by rw [hconfig]; exact h.legal
    status := h.status.storeReg r w
    buffers := h.buffers.storeReg h.legal r w
    pending := h.pending.storeReg hlock w
    reset := .of_released (hrst.trans hr) }

theorem Inv.hostWrite {s t : State} (h : Inv s) (hr : s.rst = false) {r : Reg} {w : Word}
    (ht : hostWrite r w s = .next t) : Inv t := by
  rcases hostWrite_cases ht with ⟨-, -, rfl⟩ | ⟨-, hp, ⟨i, hd, rfl⟩ | ⟨-, -, rfl⟩⟩ | ⟨-, hlock, rfl⟩
  · exact h.setOvr hr
  · exact h.accept hr hp (wellFormed_of_decode hd)
  · exact h.raiseError hr hp w (by decide)
  · exact h.storeReg hr hlock w

/-- A completion sets DONE, and finds ERR clear (R34, R264). -/
theorem Inv.complete {s : State} (h : Inv s) {i : Instr} (hp : s.pending = some i) : Inv (effectOf i s).finish where
  legal := by simpa using h.legal
  status := by
    obtain ⟨hbusy, -, hcode, hmax⟩ := h.status
    obtain ⟨-, herr⟩ := hbusy (by simp [State.busy, hp])
    exact ⟨fun hb => Bool.noConfusion hb, fun hx => by simp [herr] at hx, by simpa using hcode, by simpa using hmax⟩
  buffers := h.buffers.effectOf h.legal i
  pending := .of_idle rfl
  reset := .of_released (by simpa using h.reset.released_of_pending hp)

theorem Inv.completionStep {s t : State} (h : Inv s) (ht : completionStep s = .next t) : Inv t := by
  rcases completionStep_cases ht with ⟨-, rfl⟩ | ⟨i, hp, rfl⟩
  · exact h
  · exact h.complete hp

/-- The invariant holds of the reset values with any legal parameters (R53, R260). -/
theorem Inv.of_resetValues {s : State} (hl : s.config.Legal) : Inv s.assertReset where
  legal := hl
  status := by simp [StatusOk, State.busy, State.reset]
  buffers := by simp [BuffersOk, State.reset]
  pending := .of_idle rfl
  reset := .of_asserted s

theorem Inv.releaseReset {s : State} (h : Inv s) : Inv { s with rst := false } where
  legal := h.legal
  status := h.status
  buffers := h.buffers
  pending := h.pending
  reset := .of_released rfl

/-- Settles O54: what each kind of step does, and that it keeps every part of the invariant. -/
theorem stepKeepsTheInvariant : Obligations.StepKeepsTheInvariant := by
  intro s t hinv hstep
  have h := hinv.script (restOf s)
  rcases step_cases hstep with ⟨-, ht⟩ | ⟨_, _, r, -, hr, -, rfl⟩ | ⟨_, _, w, r, -, hr, -, ht⟩ | ⟨-, rfl⟩ | ⟨-, rfl⟩
  · exact h.completionStep ht
  · exact h.hostRead hr r
  · exact h.hostWrite hr ht
  · exact .of_resetValues h.legal
  · exact h.releaseReset

/-- Settles O53: the reset state is that of the default parameters with `rst` released. -/
theorem invariantAtReset : Obligations.InvariantAtReset :=
  (Inv.of_resetValues (s := State.reset) (by decide)).releaseReset

end Sys2Proof.Machine
end

section
/-! PROOFS. What a step changes, idle and in flight (R32, R38 to R45, R47, R266), and what it shows of KEY (R45, R87). -/

namespace Sys2Proof.Machine

/-! ### Which registers a completion writes (R104) -/

theorem effectOf_code_or (i : Instr) (s : State) :
    (effectOf i s).code = s.code ∨ ∃ d, i = .modred d ∨ i = .hotp d ∨ i = .totp d := by
  cases i with
  | modred d => exact .inr ⟨d, .inl rfl⟩
  | hotp d => exact .inr ⟨d, .inr (.inl rfl)⟩
  | totp d => exact .inr ⟨d, .inr (.inr rfl)⟩
  | _ => exact .inl rfl

theorem effectOf_offset_or (i : Instr) (s : State) :
    (effectOf i s).offset = s.offset ∨ i = .trunc ∨ ∃ d, i = .hotp d ∨ i = .totp d := by
  cases i with
  | trunc => exact .inr (.inl rfl)
  | hotp d => exact .inr (.inr ⟨d, .inl rfl⟩)
  | totp d => exact .inr (.inr ⟨d, .inr rfl⟩)
  | _ => exact .inl rfl

theorem effectOf_digest_or (i : Instr) (s : State) :
    (effectOf i s).digest = s.digest ∨ i = .hmac ∨ ∃ d, i = .hotp d ∨ i = .totp d := by
  cases i with
  | hmac => exact .inr (.inl rfl)
  | hotp d => exact .inr (.inr ⟨d, .inl rfl⟩)
  | totp d => exact .inr (.inr ⟨d, .inr rfl⟩)
  | _ => exact .inl rfl

theorem effectOf_ctr_or (i : Instr) (s : State) :
    (effectOf i s).ctr = s.ctr ∨ i = .tstep ∨ ∃ d, i = .totp d := by
  cases i with
  | tstep => exact .inr (.inl rfl)
  | totp d => exact .inr (.inr ⟨d, rfl⟩)
  | _ => exact .inl rfl

/-! ### Which writes change CTR -/

theorem storeReg_ctr {r : Reg} (hhi : r ≠ .ctrHi) (hlo : r ≠ .ctrLo) (w : Word) (s : State) :
    (storeReg r w s).ctr = s.ctr := by
  cases r with
  | ctrHi => exact absurd rfl hhi
  | ctrLo => exact absurd rfl hlo
  | status => rw [storeReg, writeStatus_eq]
  | key k => rw [storeReg]; split <;> rfl
  | msg k => rw [storeReg]; split <;> rfl
  | _ => rfl

/-- What an offset of the window reaches: a buffer word, a reserved offset, or a row of the map (R72). -/
theorem regAt_cases (off : Nat) :
    (∃ k, regAt off = .key k) ∨ (∃ k, regAt off = .msg k) ∨ regAt off = .reserved ∨ (off, regAt off) ∈ regMap := by
  rw [regAt]
  split_ifs
  · exact .inl ⟨_, rfl⟩
  · exact .inr (.inl ⟨_, rfl⟩)
  · rcases hrow : regMap.lookup off with _ | r
    · exact .inr (.inr (.inl rfl))
    · obtain ⟨before, after, heq, -⟩ := List.lookup_eq_some_iff.mp hrow
      exact .inr (.inr (.inr (by simp [heq])))

/-- CTR_HI and CTR_LO stand at one offset each (R72). -/
theorem regAt_eq_ctr {off : Nat} (h : regAt off = .ctrHi ∨ regAt off = .ctrLo) : off = 0x020 ∨ off = 0x024 := by
  rcases regAt_cases off with ⟨k, hk⟩ | ⟨k, hk⟩ | hk | hrow
  · simp [hk] at h
  · simp [hk] at h
  · simp [hk] at h
  · rcases h with h | h
    · exact .inl (by simpa [h, regMap] using hrow)
    · exact .inr (by simpa [h, regMap] using hrow)

/-! ### A step on an idle block -/

/-- Out of reset, an idle block writes no result, and CTR only as the host does (R38, R42 to R44). -/
theorem step_idle {s t : State} (hp : s.pending = none) (h : step s = .next t) (hrst : ∀ es, s.script ≠ .rst true :: es) :
    t.code = s.code ∧ t.offset = s.offset ∧ t.digest = s.digest ∧
    (t.ctr = s.ctr ∨ ∃ w es, s.script = .write (s.config.base + 0x020) .w32 w :: es ∨
      s.script = .write (s.config.base + 0x024) .w32 w :: es) := by
  rcases step_cases h with ⟨-, ht⟩ | ⟨_, _, r, -, -, -, rfl⟩ | ⟨_, _, w, r, hs, -, htarget, ht⟩ | ⟨hs, -⟩ | ⟨-, rfl⟩
  · rw [completionStep_of_idle (by exact hp)] at ht
    cases ht
    exact ⟨rfl, rfl, rfl, .inl rfl⟩
  · exact ⟨rfl, rfl, rfl, .inl rfl⟩
  · rcases hostWrite_cases ht with ⟨hbusy, -, -⟩ | ⟨-, -, ⟨i, -, rfl⟩ | ⟨_, -, rfl⟩⟩ | ⟨-, -, rfl⟩
    · simp [State.busy, hp] at hbusy
    · rw [accept_frame]
      exact ⟨rfl, rfl, rfl, .inl rfl⟩
    · exact ⟨rfl, rfl, rfl, .inl rfl⟩
    · obtain ⟨-, -, -, hoffset, hcode, hdigest, -⟩ := storeReg_frame r w { s with script := restOf s }
      refine ⟨hcode, hoffset, hdigest, ?_⟩
      by_cases hr : r = .ctrHi ∨ r = .ctrLo
      · obtain ⟨off, -, -, rfl, rfl, rfl⟩ := portTarget_ok htarget
        rcases regAt_eq_ctr hr with rfl | rfl
        · exact .inr ⟨w, _, .inl hs⟩
        · exact .inr ⟨w, _, .inr hs⟩
      · obtain ⟨hhi, hlo⟩ := not_or.mp hr
        exact .inl (storeReg_ctr hhi hlo w _)
  · exact absurd hs (hrst _)
  · exact ⟨rfl, rfl, rfl, .inl rfl⟩

/-! ### A step while a command is in flight -/

theorem storeReg_sameRegisters {r : Reg} (h : r.locked = false) (w : Word) (s : State) (es : List PortEvent) :
    SameRegisters { s with ie := (storeReg r w { s with script := es }).ie } (storeReg r w { s with script := es }) := by
  rw [storeReg_of_unlocked h]
  constructor <;> rfl

/-- A command in flight completes, is abandoned by `rst`, or stays, and then every register but CTRL and STATUS does
(R47, R260, R264, R266). -/
theorem step_in_flight {s t : State} {i : Instr} (hp : s.pending = some i) (h : step s = .next t) :
    (CompletionTurn s ∧ t = (effectOf i { s with script := restOf s }).finish) ∨
    (s.script = .rst true :: restOf s ∧ t.pending = none) ∨
    SameRegisters { s with ie := t.ie } t := by
  rcases step_cases h with ⟨hs, ht⟩ | ⟨_, _, r, -, -, -, rfl⟩ | ⟨_, _, w, r, -, -, -, ht⟩ | ⟨hs, rfl⟩ | ⟨-, rfl⟩
  · rw [completionStep_of_pending (by exact hp)] at ht
    cases ht
    exact .inl ⟨hs.imp_right fun hs => ⟨_, hs⟩, rfl⟩
  · exact .inr (.inr (by constructor <;> rfl))
  · rcases hostWrite_cases ht with ⟨-, -, rfl⟩ | ⟨-, hidle, -⟩ | ⟨-, hlock, rfl⟩
    · exact .inr (.inr (by constructor <;> rfl))
    · cases hp.symm.trans hidle
    · exact .inr (.inr (storeReg_sameRegisters (hlock (by simp [State.busy, hp])) w s _))
  · exact .inr (.inl ⟨hs, rfl⟩)
  · exact .inr (.inr (by constructor <;> rfl))

/-- Settles O55: completion and reset both empty PENDING, and every other step keeps the registers. -/
theorem operandsHoldUntilCompletion : Obligations.OperandsHoldUntilCompletion := by
  intro s t hne hstay hstep
  obtain ⟨i, hp⟩ := Option.ne_none_iff_exists'.mp hne
  rcases step_in_flight hp hstep with ⟨-, rfl⟩ | ⟨-, hnone⟩ | hsame
  · cases hstay.trans hp
  · cases hnone.symm.trans (hstay.trans hp)
  · exact hsame

/-- No step changes the parameters (R7, R32). -/
theorem step_config {s t : State} (h : step s = .next t) : t.config = s.config := by
  rcases step_cases h with ⟨-, ht⟩ | ⟨_, _, r, -, -, -, rfl⟩ | ⟨_, _, w, r, -, -, -, ht⟩ | ⟨-, rfl⟩ | ⟨-, rfl⟩
  · rcases completionStep_cases ht with ⟨-, rfl⟩ | ⟨i, -, rfl⟩
    · rfl
    · exact effectOf_config _ _
  · rfl
  · rcases hostWrite_cases ht with ⟨-, -, rfl⟩ | ⟨-, -, ⟨i, -, rfl⟩ | ⟨_, -, rfl⟩⟩ | ⟨-, -, rfl⟩
    · rfl
    · rw [accept_frame]
    · rfl
    · exact (storeReg_frame r w _).1
  · rfl
  · rfl

/-- Settles O56: the completion of a command writes its own registers only, and no other step out of reset writes a
result. -/
theorem resultsChangeOnlyAtCompletion : Obligations.ResultsChangeOnlyAtCompletion := by
  intro s t hstep
  refine ⟨step_config hstep, fun hrst => ?_⟩
  rcases hp : s.pending with _ | i
  · obtain ⟨hcode, hoffset, hdigest, hctr⟩ := step_idle hp hstep hrst
    exact ⟨fun hne => absurd hcode hne, fun hne => absurd hoffset hne, fun hne => absurd hdigest hne,
      fun hne => .inr ⟨rfl, hctr.resolve_left hne⟩, fun hne => absurd rfl hne⟩
  · simp only [Option.some.injEq]
    rcases step_in_flight hp hstep with ⟨hturn, rfl⟩ | ⟨hs, -⟩ | hsame
    · exact ⟨fun hne => ⟨hturn, rfl, (effectOf_code_or i _).resolve_left hne⟩,
        fun hne => ⟨hturn, rfl, (effectOf_offset_or i _).resolve_left hne⟩,
        fun hne => ⟨hturn, rfl, (effectOf_digest_or i _).resolve_left hne⟩,
        fun hne => .inl ⟨hturn, rfl, (effectOf_ctr_or i _).resolve_left hne⟩,
        fun _ => ⟨effectOf_epoch i _, effectOf_interval i _, effectOf_keylen i _, effectOf_key i _⟩⟩
    · exact absurd hs (hrst _)
    · exact ⟨fun hne => absurd hsame.code.symm hne, fun hne => absurd hsame.offset.symm hne,
        fun hne => absurd hsame.digest.symm hne, fun hne => absurd hsame.ctr.symm hne,
        fun _ => ⟨hsame.epoch.symm, hsame.interval.symm, hsame.keylen.symm, hsame.key.symm⟩⟩

/-! ### A CMD write to an idle block -/

theorem hostWrite_cmd_of_idle {s : State} (h : s.pending = none) (w : Word) :
    hostWrite .cmd w s = presentCommand w s := by
  simp [hostWrite, State.busy, h]

theorem presentCommand_of_command {w : Word} {i : Instr} (h : decode w = .command i) (s : State) :
    presentCommand w s = exec i s := by
  simp only [presentCommand, h]

theorem presentCommand_of_illegal {w : Word} {why : Illegal} (h : decode w = .illegal why) (s : State) :
    presentCommand w s = .next (rejectWord w s) := by
  simp only [presentCommand, h]

/-- Settles O5: offset 0x010 is CMD, and an idle block takes the word. -/
theorem cmdWriteRunsTheDecodedCommand : Obligations.CmdWriteRunsTheDecodedCommand := by
  intro s w i es hs hr hp hd
  rw [step_write hs hr (by decide) (by decide)]
  exact (hostWrite_cmd_of_idle (s := { s with script := es }) hp w).trans (presentCommand_of_command hd _)

/-! ### What the port shows of KEY -/

/-- The state with other contents of KEY. -/
def State.withKey (s : State) (k : Memory) : State := { s with key := k }

/-- Two outcomes are the same but for what KEY holds after the step. -/
def SameButKey : Host.Outcome State Fault Refusal → Host.Outcome State Fault Refusal → Prop
  | .next t, o => ∃ k, o = .next (t.withKey k)
  | .fault f, o => o = .fault f
  | .refused r, o => o = .refused r

/-- No check at acceptance reads KEY. -/
theorem accept_withKey (i : Instr) (s : State) (k : Memory) :
    accept i (checksOf i (s.withKey k)) (s.withKey k) = (accept i (checksOf i s) s).withKey k := by
  have hchecks : checksOf i (s.withKey k) = checksOf i s := by cases i <;> rfl
  rw [hchecks, accept, accept]
  cases firstError (checksOf i s) <;> rfl

theorem effectOf_withKey {i : Instr} (h : readsKey i = false) (s : State) (k : Memory) :
    effectOf i (s.withKey k) = (effectOf i s).withKey k := by
  cases i with
  | hmac | hotp | totp => cases h
  | _ => rfl

theorem hostRead_withKey (r : Reg) (s : State) (k : Memory) :
    hostRead r (s.withKey k) = (hostRead r s).withKey k := by
  cases r <;> rfl

theorem storeReg_withKey (r : Reg) (w : Word) (s : State) (k : Memory) :
    ∃ k', storeReg r w (s.withKey k) = (storeReg r w s).withKey k' := by
  cases r with
  | status => exact ⟨k, by simp only [storeReg, writeStatus_eq]; rfl⟩
  | key j =>
    by_cases hj : 4 * j < s.config.keyMax
    · exact ⟨k.setBytes (4 * j) (wordBytes w), by simp [storeReg, State.withKey, hj]⟩
    · exact ⟨k, by simp [storeReg, State.withKey, hj]⟩
  | msg j =>
    by_cases hj : 4 * j < s.config.msgMax
    · exact ⟨k, by simp [storeReg, State.withKey, hj]⟩
    · exact ⟨k, by simp [storeReg, State.withKey, hj]⟩
  | _ => exact ⟨k, rfl⟩

theorem completionStep_sameButKey {s : State} (h : ∀ i, s.pending = some i → readsKey i = false) (k : Memory) :
    SameButKey (completionStep s) (completionStep (s.withKey k)) := by
  rcases hp : s.pending with _ | i
  · rw [completionStep_of_idle hp, completionStep_of_idle (by exact hp)]
    exact ⟨k, rfl⟩
  · rw [completionStep_of_pending hp, completionStep_of_pending (by exact hp), effectOf_withKey (h i hp)]
    exact ⟨k, rfl⟩

theorem presentCommand_sameButKey {s : State} (hp : s.pending = none) (w : Word) (k : Memory) :
    SameButKey (presentCommand w s) (presentCommand w (s.withKey k)) := by
  rcases hd : decode w with i | why
  · rw [presentCommand_of_command hd, presentCommand_of_command hd, exec_of_idle i hp, exec_of_idle i (by exact hp)]
    exact ⟨k, by rw [accept_withKey]⟩
  · rw [presentCommand_of_illegal hd, presentCommand_of_illegal hd]
    exact ⟨k, rfl⟩

theorem hostWrite_sameButKey (r : Reg) (w : Word) (s : State) (k : Memory) :
    SameButKey (hostWrite r w s) (hostWrite r w (s.withKey k)) := by
  have hstore : SameButKey (.next (storeReg r w s)) (.next (storeReg r w (s.withKey k))) := by
    obtain ⟨k', hk'⟩ := storeReg_withKey r w s k
    exact ⟨k', by rw [hk']⟩
  rcases hlock : r.locked
  · rwa [hostWrite_of_unlocked hlock, hostWrite_of_unlocked hlock]
  · by_cases hp : s.pending = none
    · by_cases hc : r = .cmd
      · subst hc
        rw [hostWrite_cmd_of_idle hp, hostWrite_cmd_of_idle (by exact hp)]
        exact presentCommand_sameButKey hp w k
      · rwa [hostWrite_of_idle hp hc, hostWrite_of_idle (by exact hp) hc]
    · rw [hostWrite_of_locked hlock hp, hostWrite_of_locked hlock (by exact hp)]
      exact ⟨k, rfl⟩

theorem hostAccess_sameButKey (addr : Nat) (width : Width) (s : State) (k : Memory)
    {f g : Reg → Host.Outcome State Fault Refusal} (h : ∀ r, SameButKey (f r) (g r)) :
    SameButKey (hostAccess addr width s f) (hostAccess addr width (s.withKey k) g) := by
  by_cases hr : s.rst = true
  · simp [hostAccess, State.withKey, hr, SameButKey]
  · rcases ht : portTarget s.config addr width with fault | r
    · simp [hostAccess, State.withKey, hr, ht, SameButKey]
    · simpa [hostAccess, State.withKey, hr, ht] using h r

theorem portEvent_sameButKey {e : PortEvent} {s : State}
    (h : e = .tick → ∀ i, s.pending = some i → readsKey i = false) (k : Memory) :
    SameButKey (portEvent e s) (portEvent e (s.withKey k)) := by
  match e with
  | .tick => exact completionStep_sameButKey (h rfl) k
  | .read addr width => exact hostAccess_sameButKey addr width s k fun r => ⟨k, by rw [hostRead_withKey]⟩
  | .write addr width w => exact hostAccess_sameButKey addr width s k fun r => hostWrite_sameButKey r w s k
  | .rst true => exact ⟨[], rfl⟩
  | .rst false => exact ⟨k, rfl⟩

theorem step_sameButKey {s : State} (h : CompletionTurn s → ∀ i, s.pending = some i → readsKey i = false) (k : Memory) :
    SameButKey (step s) (step (s.withKey k)) := by
  rcases hs : s.script with _ | ⟨e, es⟩
  · rw [step_nil hs, step_nil (by exact hs)]
    exact completionStep_sameButKey (h (.inl hs)) k
  · rw [step_cons hs, step_cons (s := s.withKey k) (by exact hs)]
    refine portEvent_sameButKey (s := { s with script := es }) (fun he => h (.inr ⟨es, ?_⟩)) k
    rw [hs, he]

/-- Settles O41: a step on two states that differ in KEY alone gives outcomes that do. -/
theorem keyStaysInTheBlock : Obligations.KeyStaysInTheBlock := by
  intro s key' h
  have hsame := step_sameButKey h key'
  refine ⟨fun t ht => ?_, fun f hf => ?_, fun r hr => ?_⟩
  · rwa [ht] at hsame
  · rwa [hf] at hsame
  · rwa [hr] at hsame

end Sys2Proof.Machine
end

section
/-! PROOFS. Reads and writes of the registers and buffers (R31 to R46, R72 to R77), STATUS, `irq` and `rst` (R34, R48,
R53, R260). -/

namespace Sys2Proof.Machine

/-! ### The rows of the map (R72) -/

theorem regMap_row : ∀ row ∈ regMap, row.1 < 4096 ∧ row.1 % 4 = 0 ∧ regAt row.1 = row.2 := by decide

theorem regMap_ne_msg {off : Nat} {r : Reg} (h : (off, r) ∈ regMap) (k : Nat) : r ≠ .msg k := by
  rintro rfl
  simp [regMap] at h

/-! ### Reads -/

/-- The draw count never goes back, and only a read of MSG moves it (log 1). -/
theorem le_readReg_draws (r : Reg) (s : State) : s.draws ≤ (readReg r s).2 := by
  cases r with
  | msg k =>
    rw [readReg]
    split
    · exact Memory.le_readBytes_draws _ _ _ _
    · exact le_rfl
  | _ => exact le_rfl

theorem readReg_draws_of_ne_msg {r : Reg} (h : ∀ k, r ≠ .msg k) (s : State) : (readReg r s).2 = s.draws := by
  cases r with
  | msg k => exact absurd rfl (h k)
  | _ => rfl

theorem readReg_script (r : Reg) (s : State) (es : List PortEvent) :
    readReg r { s with script := es } = readReg r s := by
  cases r <;> rfl

/-- A read of a row of the map answers its value and changes nothing (R75). -/
theorem step_read_row {s : State} {es : List PortEvent} {off : Nat} {r : Reg} (hrow : (off, r) ∈ regMap)
    (hs : s.script = .read (s.config.base + off) .w32 :: es) (hr : s.rst = false) :
    step s = .next { s with script := es, rdata := some (readReg r s).1 } := by
  obtain ⟨ho, h4, hreg⟩ := regMap_row _ hrow
  rw [step_read hs hr ho h4, hreg, hostRead, readReg_script, readReg_draws_of_ne_msg (regMap_ne_msg hrow)]

theorem take_four_drop {α : Type} (l : List α) (n : Nat) (h : n + 3 < l.length) :
    (l.drop n).take 4 = [l[n], l[n + 1], l[n + 2], l[n + 3]] := by
  rw [List.drop_eq_getElem_cons (by omega), List.drop_eq_getElem_cons (by omega), List.drop_eq_getElem_cons (by omega),
    List.drop_eq_getElem_cons (by omega)]
  rfl

/-- DIGESTk is bytes 4k to 4k+3 (R44). -/
theorem wordAt_digest (dg : Digest) (k : Nat) (h : k < 5) :
    wordAt dg.toList k = wordOfBytes [dg[4 * k], dg[4 * k + 1], dg[4 * k + 2], dg[4 * k + 3]] := by
  rw [wordAt, take_four_drop _ _ (by simp; omega)]
  simp

/-- Settles O36: the table is the map with what each row reads. -/
theorem registerReadsAnswerTheMap : Obligations.RegisterReadsAnswerTheMap := by
  intro s es off v hs hr hmem
  have hrow : ∃ r, (off, r) ∈ regMap ∧ (readReg r s).1 = v := by
    suffices h : (off, v) ∈ regMap.map fun row => (row.1, (readReg row.2 s).1) by
      simpa using h
    simpa [regMap, readReg, wordAt_digest, idWord, hiHalf, loHalf] using hmem
  obtain ⟨r, hrow, rfl⟩ := hrow
  exact step_read_row hrow hs hr

/-- Settles O40: every aligned offset has a word, and a read of it answers. -/
theorem readsHaveNoSideEffects : Obligations.ReadsHaveNoSideEffects := by
  intro s es off ho h4 hs hr
  exact ⟨_, _, le_readReg_draws (regAt off) { s with script := es }, step_read hs hr ho h4⟩

theorem hostRead_msgWord_written {s : State} {k : Nat} (hk : 4 * k < s.config.msgMax) {b0 b1 b2 b3 : Byte}
    (h0 : s.msg.get? (4 * k) = some b0) (h1 : s.msg.get? (4 * k + 1) = some b1)
    (h2 : s.msg.get? (4 * k + 2) = some b2) (h3 : s.msg.get? (4 * k + 3) = some b3) :
    hostRead (.msg k) s = { s with rdata := some (wordOfBytes [b0, b1, b2, b3]) } := by
  have hread : s.msg.readBytes (4 * k) 4 s.draws = ([b0, b1, b2, b3], s.draws) :=
    Memory.readBytes_of_written s.msg [b0, b1, b2, b3] (4 * k) s.draws fun j hj =>
      match j, hj with
      | 0, _ => h0
      | 1, _ => h1
      | 2, _ => h2
      | 3, _ => h3
  rw [hostRead, readReg, if_pos hk, hread]

/-- Settles O39: KEY is write-only, and a written MSG word draws no free byte. -/
theorem bufferReads : Obligations.BufferReads := by
  intro s es k hr
  refine ⟨fun hk hs => ?_, fun hk hmax hs b0 b1 b2 b3 h0 h1 h2 h3 => ?_⟩
  · rw [step_read hs hr (by omega) (by omega), regAt_keyWord hk, hostRead_keyWord]
  · rw [step_read hs hr (by omega) (by omega), regAt_msgWord hk,
      hostRead_msgWord_written (s := { s with script := es }) hmax h0 h1 h2 h3]

/-! ### Writes to an idle block -/

theorem step_write_of_idle {s : State} {off : Nat} {w : Word} {es : List PortEvent} {r : Reg}
    (hs : s.script = .write (s.config.base + off) .w32 w :: es) (hr : s.rst = false) (hp : s.pending = none)
    (ho : off < 4096) (h4 : off % 4 = 0) (hreg : regAt off = r) (hc : r ≠ .cmd) :
    step s = .next (storeReg r w { s with script := es }) := by
  rw [step_write hs hr ho h4, hreg]
  exact hostWrite_of_idle hp hc

/-- Settles O42: an idle block performs the write, and each of the three words is a plain register. -/
theorem operandWrites : Obligations.OperandWrites := by
  intro s es off w hs hr hp
  refine ⟨?_, ?_, ?_⟩
  · rintro rfl
    exact step_write_of_idle (r := .keylen) hs hr hp (by decide) (by decide) rfl (by decide)
  · rintro rfl
    exact step_write_of_idle (r := .msglen) hs hr hp (by decide) (by decide) rfl (by decide)
  · rintro rfl
    exact step_write_of_idle (r := .trunc) hs hr hp (by decide) (by decide) rfl (by decide)

/-- A 64-bit register after a write of its HI half, of its LO half, or of neither (R77). -/
theorem writeHalf_toNat (v : BitVec 64) (w : Word) {hi lo : Prop} [Decidable hi] [Decidable lo] (h : ¬(hi ∧ lo)) :
    (if hi then setHiHalf v w else if lo then setLoHalf v w else v).toNat =
      (if hi then w.toNat else v.toNat / 2 ^ 32) * 2 ^ 32 + if lo then w.toNat else v.toNat % 2 ^ 32 := by
  by_cases hhi : hi
  · have hlo : ¬lo := fun hlo => h ⟨hhi, hlo⟩
    simp only [hhi, hlo, if_true, if_false, setHiHalf, joinHalves_toNat, loHalf_toNat]
  · by_cases hlo : lo
    · simp only [hhi, hlo, if_true, if_false, setLoHalf, joinHalves_toNat, hiHalf_toNat]
    · simp only [hhi, hlo, if_false, Nat.div_add_mod']

/-- What a write at each of the six offsets does to the three 64-bit registers, and that it is aligned and no CMD
write. -/
theorem storeReg_half (w : Word) (s : State) :
    ∀ off ∈ [0x020, 0x024, 0x028, 0x02C, 0x030, 0x034], off < 4096 ∧ off % 4 = 0 ∧ regAt off ≠ .cmd ∧
      storeReg (regAt off) w s = { s with
        ctr := if off = 0x020 then setHiHalf s.ctr w else if off = 0x024 then setLoHalf s.ctr w else s.ctr
        epoch := if off = 0x028 then setHiHalf s.epoch w else if off = 0x02C then setLoHalf s.epoch w else s.epoch
        interval := if off = 0x030 then setHiHalf s.interval w else if off = 0x034 then setLoHalf s.interval w
          else s.interval } := by
  intro off hoff
  simp only [List.mem_cons, List.not_mem_nil, or_false] at hoff
  rcases hoff with rfl | rfl | rfl | rfl | rfl | rfl <;> exact ⟨by decide, by decide, by decide, rfl⟩

/-- Settles O43: which half of which register each offset writes, and the value of the register then. -/
theorem halfWritesKeepTheOtherHalf : Obligations.HalfWritesKeepTheOtherHalf := by
  intro s es off w hs hr hp hoff
  obtain ⟨ho, h4, hc, hstore⟩ := storeReg_half w { s with script := es } off hoff
  rw [step_write_of_idle hs hr hp ho h4 rfl hc, hstore]
  exact ⟨_, rfl, rfl, writeHalf_toNat _ _ (by omega), writeHalf_toNat _ _ (by omega), writeHalf_toNat _ _ (by omega)⟩

/-- Byte j of a word, the most significant being byte 0 (R76). -/
theorem wordBytes_getElem? (w : Word) {j : Nat} (h : j < 4) :
    (wordBytes w)[j]? = some (w.extractLsb' (24 - 8 * j) 8) := by
  rw [List.getElem?_eq_getElem (by simpa using h)]
  simp only [wordBytes, beBytes_getElem, BitVec.extractLsb']
  rw [show 8 * (4 - 1 - j) = 24 - 8 * j by omega]

/-- A word stored in a buffer: its four bytes, and every other byte as before (R76). -/
theorem Memory.setBytes_word (m : Memory) (a : Nat) (w : Word) :
    (∀ j, j < 4 → (m.setBytes a (wordBytes w)).get? (a + j) = some (w.extractLsb' (24 - 8 * j) 8)) ∧
    (∀ a', a' < a ∨ a + 4 ≤ a' → (m.setBytes a (wordBytes w)).get? a' = m.get? a') := by
  constructor
  · intro j hj
    rw [Memory.get?_setBytes_of_inside _ _ _ _ (by simpa using hj), wordBytes_getElem? w hj]
  · intro a' ha'
    exact Memory.get?_setBytes_of_outside _ _ _ _ (by simpa using ha')

/-- Settles O44: the write is performed, and is a word stored at byte 4k of KEY. -/
theorem keyWordWriteStoresFourBytes : Obligations.KeyWordWriteStoresFourBytes := by
  intro s es k w hk hmax hs hr hp
  rw [step_write_of_idle hs hr hp (by omega) (by omega) (regAt_keyWord hk) (by simp), storeReg, if_pos (by exact hmax)]
  exact ⟨_, rfl, rfl, Memory.setBytes_word s.key (4 * k) w⟩

/-- Settles O45: the write is performed, and is a word stored at byte 4k of MSG. -/
theorem msgWordWriteStoresFourBytes : Obligations.MsgWordWriteStoresFourBytes := by
  intro s es k w hk hmax hs hr hp
  rw [step_write_of_idle hs hr hp (by omega) (by omega) (regAt_msgWord hk) (by simp), storeReg, if_pos (by exact hmax)]
  exact ⟨_, rfl, rfl, Memory.setBytes_word s.msg (4 * k) w⟩

/-! ### CTRL, STATUS and `irq` -/

/-- Settles O47: both words are outside the BUSY lock. -/
theorem controlAndStatusWrites : Obligations.ControlAndStatusWrites := by
  intro s es off w hs hr
  refine ⟨?_, ?_⟩
  · rintro rfl
    rw [step_write hs hr (by decide) (by decide)]
    exact hostWrite_of_unlocked (r := .ctrl) rfl
  · rintro rfl
    rw [step_write hs hr (by decide) (by decide)]
    exact (hostWrite_of_unlocked (r := .status) rfl).trans (congrArg _ (writeStatus_eq w _))

/-- A one-bit flag placed at bit n. -/
theorem getLsbD_flag (b : Bool) (n : Nat) {i : Nat} (h : i < 32) :
    ((BitVec.ofBool b).setWidth 32 <<< n).getLsbD i = (decide (i = n) && b) := by
  rw [BitVec.getLsbD_shiftLeft, BitVec.getLsbD_setWidth, BitVec.getLsbD_ofBool]
  rcases lt_trichotomy i n with hlt | rfl | hgt
  · simp [hlt, hlt.ne]
  · simp [h]
  · simp [hgt.ne', show i - n ≠ 0 by omega]

/-- ERRCODE placed at bits 11:8. -/
theorem getLsbD_errcode (e : BitVec 4) {i : Nat} (h : i < 32) :
    (e.setWidth 32 <<< 8).getLsbD i = (decide (8 ≤ i ∧ i ≤ 11) && e.getLsbD (i - 8)) := by
  rw [BitVec.getLsbD_shiftLeft, BitVec.getLsbD_setWidth]
  by_cases hi : 8 ≤ i ∧ i ≤ 11
  · simp [hi, h, show i - 8 < 32 by omega]
  · by_cases hlow : i < 8
    · simp [hlow, hi]
    · rw [BitVec.getLsbD_of_ge e (i - 8) (by omega)]
      simp

/-- Settles O38: the five fields of STATUS do not overlap. -/
theorem statusBits : Obligations.StatusBits := by
  intro s i hi
  rw [State.statusWord, ← BitVec.shiftLeft_zero ((BitVec.ofBool s.busy).setWidth 32)]
  simp only [BitVec.getLsbD_or, getLsbD_flag _ _ hi, getLsbD_errcode _ hi]
  split_ifs with h0 h1 h2 h3 hcode
  · simp [h0, State.busy]
  · simp [h1]
  · simp [h2]
  · simp [h3]
  · simp [h0, h1, h2, h3, hcode]
  · simp [h0, h1, h2, h3, hcode]

/-- Settles O52: an in-flight command has DONE and ERR clear. -/
theorem irqIsEnableAndDoneOrErr : Obligations.IrqIsEnableAndDoneOrErr := by
  refine ⟨fun _ => rfl, fun s hstatus hbusy => ?_, fun _ _ => rfl⟩
  obtain ⟨hdone, herr⟩ := hstatus.1 hbusy
  simp [State.irq, hdone, herr]

/-! ### Reset -/

theorem hostAccess_during_reset {s : State} (h : s.rst = true) (addr : Nat) (width : Width)
    (run : Reg → Host.Outcome State Fault Refusal) : hostAccess addr width s run = .refused .accessDuringReset := by
  rw [hostAccess, if_pos h]

/-- Settles O51: the two level changes of `rst`, and an access while it is asserted. -/
theorem rstGivesTheResetValues : Obligations.RstGivesTheResetValues := by
  refine ⟨fun s es hs => step_cons hs, fun s es hs => step_cons hs, fun s es addr width v hr hs => ?_⟩
  rcases hs with hs | hs
  · rw [step_cons hs]
    exact hostAccess_during_reset hr addr width _
  · rw [step_cons hs]
    exact hostAccess_during_reset hr addr width _

/-- Settles O50: the values of `State.reset`, which has nothing in its buffers. -/
theorem resetStateHoldsTheResetValues : Obligations.ResetStateHoldsTheResetValues :=
  ⟨rfl, paramHoldsTheBufferSizes.2, rfl, by decide, rfl, rfl, rfl, rfl, rfl, rfl, rfl, rfl, rfl, rfl,
    Memory.get?_nil, Memory.get?_nil, rfl, rfl⟩

/-! ### Completion on bytes never written -/

/-- Settles O15: the two reads of the buffers always give bytes, and draw the missing ones. -/
theorem hmacCompletesOnUnwrittenBytes : Obligations.HmacCompletesOnUnwrittenBytes := by
  intro s hp
  have hkey : s.draws ≤ s.readKey.2 := Memory.le_readBytes_draws _ _ _ _
  have hmsg : s.readKey.2 ≤ (s.readMsg s.readKey.2).2 := Memory.le_readBytes_draws _ _ _ _
  exact ⟨_, _, hkey.trans hmsg, exec_of_pending hp⟩

theorem timeCounter_toNat {i : BitVec 64} (h : i ≠ 0) (t : BitVec 64) :
    (timeCounter t i).toNat = t.toNat / i.toNat := by
  rw [timeCounter, if_neg h, BitVec.toNat_ofNat, Nat.mod_eq_of_lt ((Nat.div_le_self _ _).trans_lt t.isLt)]

/-- Settles O21: the pipeline writes what follows from its digest, whichever bytes the key was read as. -/
theorem codesCompleteOnUnwrittenKeys : Obligations.CodesCompleteOnUnwrittenKeys := by
  intro s d
  have hkey : s.draws ≤ s.readKey.2 := Memory.le_readBytes_draws _ _ _ _
  refine ⟨fun hp => ⟨hmacSha1 s.readKey.1 (encodeCounter s.ctr), _, hkey, ?_⟩,
    fun hp hi => ⟨hmacSha1 s.readKey.1 (encodeCounter (timeCounter s.epoch s.interval)), _, _, hkey,
      timeCounter_toNat hi s.epoch, ?_⟩⟩
  · rw [exec_of_pending hp, effectOf, hotpEffect, codePipeline_eq d rfl]
    rfl
  · rw [exec_of_pending hp, effectOf, totpEffect, codePipeline_eq d rfl]
    rfl

end Sys2Proof.Machine
end

section
/-! PROOFS. The runs of a host: bad accesses (R70, R73), well-behaved hosts (R73, R235, R260), and ENC_CTR read back at
the port (R78). -/

namespace Sys2Proof.Machine

/-! ### Accesses without a target -/

theorem portTarget_outside {c : Config} {addr : Nat} (h : addr < c.base ∨ c.base + 4096 ≤ addr) (width : Width) :
    portTarget c addr width = .error .outsideWindow := by
  rw [portTarget, if_pos h]

theorem portTarget_badWidth {c : Config} {addr : Nat} {width : Width} (hlo : c.base ≤ addr) (hhi : addr < c.base + 4096)
    (hw : width ≠ .w32) : portTarget c addr width = .error .badWidth := by
  rw [portTarget, if_neg (by omega), if_pos hw]

theorem portTarget_misaligned {c : Config} {addr : Nat} (hlo : c.base ≤ addr) (hhi : addr < c.base + 4096)
    (h4 : (addr - c.base) % 4 ≠ 0) : portTarget c addr .w32 = .error .misaligned := by
  rw [portTarget, if_neg (by omega), if_neg (by simp), if_pos h4]

theorem hostAccess_of_error {addr : Nat} {width : Width} {s : State} {f : Fault}
    (run : Reg → Host.Outcome State Fault Refusal) (hr : s.rst = false)
    (h : portTarget s.config addr width = .error f) : hostAccess addr width s run = .fault f := by
  simp [hostAccess, hr, h]

/-- Out of reset, an access without a target stops the machine, be it a read or a write (R73). -/
theorem step_of_badTarget {s : State} {es : List PortEvent} {addr : Nat} {width : Width} {v : Word} {f : Fault}
    (hr : s.rst = false) (hs : s.script = .read addr width :: es ∨ s.script = .write addr width v :: es)
    (hf : portTarget s.config addr width = .error f) : step s = .fault f := by
  rcases hs with hs | hs
  · exact (step_cons hs).trans (hostAccess_of_error _ hr hf)
  · exact (step_cons hs).trans (hostAccess_of_error _ hr hf)

/-- Settles O49: the three checks of the port's target, in their order. -/
theorem badAccessesFault : Obligations.BadAccessesFault := by
  intro s es addr width v hr hbase hs
  refine ⟨fun hout => ?_, fun hlo hhi hw => ?_, fun hlo hhi hw h4 => ?_⟩
  · exact step_of_badTarget hr hs (portTarget_outside hout width)
  · exact step_of_badTarget hr hs (portTarget_badWidth hlo hhi hw)
  · subst hw
    exact step_of_badTarget hr hs (portTarget_misaligned hlo hhi (by omega))

/-! ### Well-behaved hosts -/

theorem completionStep_next (s : State) : ∃ t, completionStep s = .next t := by
  rcases hp : s.pending with _ | i
  · exact ⟨_, completionStep_of_idle hp⟩
  · exact ⟨_, completionStep_of_pending hp⟩

theorem completionStep_rst {s t : State} (h : completionStep s = .next t) : t.rst = s.rst := by
  rcases completionStep_cases h with ⟨-, rfl⟩ | ⟨i, -, rfl⟩
  · rfl
  · exact effectOf_rst i s

theorem hostWrite_rst {r : Reg} {w : Word} {s t : State} (h : hostWrite r w s = .next t) : t.rst = s.rst := by
  rcases hostWrite_cases h with ⟨-, -, rfl⟩ | ⟨-, -, ⟨i, -, rfl⟩ | ⟨_, -, rfl⟩⟩ | ⟨-, -, rfl⟩
  · rfl
  · rw [accept_frame]
  · rfl
  · obtain ⟨-, -, -, -, -, -, hrst, -⟩ := storeReg_frame r w s
    exact hrst

/-- A good access made out of reset does what the word it reaches does. -/
theorem hostAccess_of_good {addr : Nat} {width : Width} {s : State} (hr : s.rst = false)
    (h : GoodAccess s.config addr width) (run : Reg → Host.Outcome State Fault Refusal) :
    hostAccess addr width s run = run (regAt (addr - s.config.base)) :=
  hostAccess_of_ok run hr (portTarget_ok_iff.mpr ⟨h, rfl⟩)

/-- The next event of a well-behaved host always has a step (R73, R235, R260). -/
theorem step_next_of_wellBehaved {s : State} (h : WellBehaved s.config s.rst s.script) : ∃ t, step s = .next t := by
  rcases hs : s.script with _ | ⟨e, es⟩
  · rw [step_nil hs]
    exact completionStep_next s
  · rw [step_cons hs]
    rw [hs] at h
    cases e with
    | tick => exact completionStep_next _
    | read addr width =>
      obtain ⟨hr, hgood, -⟩ := h
      exact ⟨_, hostAccess_of_good (s := { s with script := es }) hr hgood _⟩
    | write addr width w =>
      obtain ⟨hr, hgood, -⟩ := h
      rw [portEvent, hostAccess_of_good (s := { s with script := es }) hr hgood]
      exact hostWrite_next _ _ _
    | rst level =>
      cases level
      · exact ⟨_, rfl⟩
      · exact ⟨_, rfl⟩

/-- What is left of a well-behaved host's script is well-behaved, from the level of `rst` the step leaves. -/
theorem step_keeps_wellBehaved {s t : State} (h : WellBehaved s.config s.rst s.script) (hstep : step s = .next t) :
    WellBehaved t.config t.rst t.script := by
  rw [step_config hstep, step_script hstep]
  rcases step_cases hstep with ⟨hs, ht⟩ | ⟨_, _, r, hs, -, -, rfl⟩ | ⟨_, _, w, r, hs, -, -, ht⟩ | ⟨hs, rfl⟩ | ⟨hs, rfl⟩
  · rw [completionStep_rst ht]
    rcases hs with hs | hs
    · rw [restOf, hs]
      trivial
    · rw [hs] at h
      exact h
  · rw [hs] at h
    obtain ⟨-, -, hrest⟩ := h
    exact hrest
  · rw [hostWrite_rst ht]
    rw [hs] at h
    obtain ⟨-, -, hrest⟩ := h
    exact hrest
  · rw [hs] at h
    exact h
  · rw [hs] at h
    exact h

/-- Settles O58, by induction on the number of steps: the host stays well-behaved, and each of its events has a step. -/
theorem wellBehavedHostsNeverFault : Obligations.WellBehavedHostsNeverFault := by
  intro s n
  induction n generalizing s with
  | zero => exact fun _ => ⟨s, rfl⟩
  | succ n ih =>
    intro h
    obtain ⟨t, hstep⟩ := step_next_of_wellBehaved h
    rw [run_succ_of_next hstep]
    exact ih t (step_keeps_wellBehaved h hstep)

/-! ### A command written to CMD and left to complete -/

theorem accept_of_check {i : Instr} {s : State} (h : acceptanceCheck i s = none) :
    accept i (checksOf i s) s = (s.present (encode i)).setPending i := by
  rw [accept, firstError_checksOf, h]

theorem step_tick {s : State} {i : Instr} {es : List PortEvent} (hs : s.script = .tick :: es)
    (hp : s.pending = some i) : step s = .next (effectOf i { s with script := es }).finish :=
  (step_cons hs).trans (completionStep_of_pending hp)

/-- The state a command leaves that passes its checks: its acceptance and its completion (R263, R264). -/
def State.afterCommand (s : State) (i : Instr) : State := (effectOf i ((s.present (encode i)).setPending i)).finish

/-- The two events of a command that passes its checks, on an idle block: it is accepted and completes (R263, R264). -/
theorem run_commandEvents {s : State} {i : Instr} {es : List PortEvent} (n : Nat)
    (hs : s.script = commandEvents s.config i ++ es) (hr : s.rst = false) (hp : s.pending = none)
    (hd : decode (encode i) = .command i) (hcheck : acceptanceCheck i s = none) :
    run (n + 2) s = run n (({ s with script := es } : State).afterCommand i) := by
  have haccept : step s = .next (({ s with script := .tick :: es }.present (encode i)).setPending i) := by
    rw [cmdWriteRunsTheDecodedCommand s _ i _ hs hr hp hd]
    exact (exec_of_idle (s := { s with script := .tick :: es }) i hp).trans (congrArg _ (accept_of_check hcheck))
  exact (run_succ_of_next haccept).trans (run_succ_of_next (step_tick rfl rfl))

/-! ### The encoded counter in MSG -/

theorem beValue_append (xs ys : List Byte) : beValue (xs ++ ys) = beValue xs * 256 ^ ys.length + beValue ys := by
  induction ys using List.reverseRecOn with
  | nil => simp [beValue_nil]
  | append_singleton ys b ih =>
    rw [← List.append_assoc, beValue_concat, beValue_concat, ih, List.length_append, List.length_singleton]
    ring

theorem beValue_wordBytes (w : Word) : beValue (wordBytes w) = w.toNat := beValue_beBytes 4 _ w.isLt

/-- The encoded counter is the bytes of its HI half and then those of its LO half (R76, R77, R130): both are 8 bytes,
with the counter as their value. -/
theorem encodeCounter_eq_halves (c : BitVec 64) :
    encodeCounter c = wordBytes (hiHalf c) ++ wordBytes (loHalf c) := by
  have hvalue : beValue (wordBytes (hiHalf c) ++ wordBytes (loHalf c)) = c.toNat := by
    rw [beValue_append, beValue_wordBytes, beValue_wordBytes, hiHalf_toNat, loHalf_toNat, wordBytes_length]
    exact Nat.div_add_mod' c.toNat (2 ^ 32)
  rw [encodeCounter, ← hvalue]
  exact beBytes_beValue (wordBytes (hiHalf c) ++ wordBytes (loHalf c))

/-- A part of a range just written reads back. -/
theorem Memory.readBytes_setBytes_part (m : Memory) (a k : Nat) (xs ys zs : List Byte) :
    (m.setBytes a (xs ++ ys ++ zs)).readBytes (a + xs.length) ys.length k = (ys, k) := by
  refine Memory.readBytes_of_written _ ys _ k fun j hj => ?_
  rw [Nat.add_assoc, Memory.get?_setBytes_of_inside _ _ _ _ (by simp; omega)]
  rw [List.append_assoc, List.getElem?_append_right (by omega), List.getElem?_append_left (by omega)]
  simp [hj]

/-- MSG0 and MSG1 after the encoder's write are the halves of the counter, with no free byte drawn (R76, R131). -/
theorem Memory.readBytes_encodeCounter (m : Memory) (c : BitVec 64) (k : Nat) :
    (m.setBytes 0 (encodeCounter c)).readBytes 0 4 k = (wordBytes (hiHalf c), k) ∧
    (m.setBytes 0 (encodeCounter c)).readBytes 4 4 k = (wordBytes (loHalf c), k) := by
  rw [encodeCounter_eq_halves]
  constructor
  · exact Memory.readBytes_setBytes_part m 0 k [] (wordBytes (hiHalf c)) (wordBytes (loHalf c))
  · simpa using Memory.readBytes_setBytes_part m 0 k (wordBytes (hiHalf c)) (wordBytes (loHalf c)) []

/-- A read of a MSG word whose four bytes are written answers the word they hold (R46, R76). -/
theorem step_read_msgWord {s : State} {es : List PortEvent} {k : Nat} {w : Word}
    (hs : s.script = memRead s.config (0x200 + 4 * k) :: es) (hr : s.rst = false) (hk : k < 16)
    (hmax : 4 * k < s.config.msgMax) (hread : s.msg.readBytes (4 * k) 4 s.draws = (wordBytes w, s.draws)) :
    step s = .next { s with script := es, rdata := some w } := by
  have hreg : readReg (.msg k) s = (w, s.draws) := by rw [readReg, if_pos hmax, hread, wordOfBytes_wordBytes]
  rw [step_read hs hr (by omega) (by omega), regAt_msgWord hk, hostRead, readReg_script, hreg]

/-- ENC_CTR and then a read of MSG0, which answers the HI half of CTR (R78). -/
theorem run_encCtr_read_msg0 {s : State} {es : List PortEvent} (n : Nat)
    (hs : s.script = commandEvents s.config .encCtr ++ memRead s.config 0x200 :: es) (hr : s.rst = false)
    (hp : s.pending = none) (hmax : 8 ≤ s.config.msgMax) :
    run (n + 3) s = run n { s.afterCommand .encCtr with script := es, rdata := some (hiHalf s.ctr) } := by
  have hk : 4 * 0 < s.config.msgMax := by omega
  have hmsg0 := (Memory.readBytes_encodeCounter s.msg s.ctr s.draws).1
  rw [run_commandEvents (n + 1) hs hr hp (by decide) rfl]
  exact run_succ_of_next (step_read_msgWord rfl hr (by decide) hk hmsg0)

/-- Settles O59: the command's two events leave the encoded counter in MSG, and each read answers one of its words. -/
theorem encodedCounterReadsAsItsHalves : Obligations.EncodedCounterReadsAsItsHalves := by
  rintro s ⟨-, ⟨-, hmax, -⟩, -⟩ hr hp
  have hk : 4 * 1 < s.config.msgMax := by omega
  have hmsg1 := (Memory.readBytes_encodeCounter s.msg s.ctr s.draws).2
  have hreads := (run_encCtr_read_msg0 (es := [memRead s.config 0x204])
    (s := { s with script := commandEvents s.config .encCtr ++ [memRead s.config 0x200, memRead s.config 0x204] })
    1 rfl hr hp hmax).trans (run_succ_of_next (step_read_msgWord rfl hr (by decide) hk hmsg1))
  exact ⟨_, _, run_encCtr_read_msg0 0 rfl hr hp hmax, rfl, hreads, rfl, rfl⟩

end Sys2Proof.Machine
end

section
/-! PROOFS. Command words (R100 to R106, R109): what the decoder answers, said by the three fields of the word; the CMD
write of an illegal word (R230, R263); and the events of `ldkey` (R111). -/

namespace Sys2Proof.Machine

/-! ### The fields of a word (R100) -/

theorem opField_toNat (w : Word) : (opField w).toNat = w.toNat % 256 := by simp [opField]

theorem digitField_toNat (w : Word) : (digitField w).toNat = w.toNat / 256 % 16 := by
  simp [digitField, Nat.shiftRight_eq_div_pow]

theorem rsvField_toNat (w : Word) : (rsvField w).toNat = w.toNat / 4096 := by
  have := w.isLt
  simp only [rsvField, BitVec.extractLsb'_toNat, Nat.shiftRight_eq_div_pow]
  omega

/-- The three fields cover the word (R100). -/
theorem word_eq_of_fields {w v : Word} (hop : opField w = opField v) (hd : digitField w = digitField v)
    (hrsv : rsvField w = rsvField v) : w = v := by
  have hop := congrArg BitVec.toNat hop
  have hd := congrArg BitVec.toNat hd
  have hrsv := congrArg BitVec.toNat hrsv
  simp only [opField_toNat, digitField_toNat, rsvField_toNat] at hop hd hrsv
  exact BitVec.eq_of_toNat_eq (by omega)

/-- The fields of a well-formed command's word (R100, R103). -/
theorem encode_fields : ∀ {i : Instr}, WellFormed i →
    opField (encode i) = i.opcode ∧ rsvField (encode i) = 0 ∧ (digitField (encode i)).toNat = i.digits
  | .nop => Laws.WordFields.nop
  | .encCtr => Laws.WordFields.encCtr
  | .hmac => Laws.WordFields.hmac
  | .trunc => Laws.WordFields.trunc
  | .modred d => Laws.WordFields.modred d
  | .tstep => Laws.WordFields.tstep
  | .hotp d => Laws.WordFields.hotp d
  | .totp d => Laws.WordFields.totp d

/-! ### The decoder by the fields -/

theorem noDigits_eq_command_iff {i j : Instr} {d : BitVec 4} : noDigits i d = .command j ↔ d = 0 ∧ i = j := by
  rw [noDigits]
  split_ifs with h
  · simp [h]
  · exact ⟨nofun, fun ⟨hd, _⟩ => absurd hd h⟩

theorem noDigits_illegal_iff {i : Instr} {d : BitVec 4} : (∃ why, noDigits i d = .illegal why) ↔ d ≠ 0 := by
  rw [noDigits]
  split_ifs with h
  · simp [h]
  · exact ⟨fun _ => h, fun _ => ⟨_, rfl⟩⟩

/-- The opcode map gives a command exactly for its opcode and its digit count (R103). -/
theorem decodeOp_eq_command_iff {op : BitVec 8} {d : BitVec 4} {i : Instr} :
    decodeOp op d = .command i ↔ op = i.opcode ∧ d.toNat = i.digits := by
  constructor
  · intro h
    rw [decodeOp] at h
    split_ifs at h with hop hop hop hop hop hop hop hop
    iterate 4
      obtain ⟨rfl, rfl⟩ := noDigits_eq_command_iff.mp h
      exact ⟨hop, rfl⟩
    · cases h
      exact ⟨hop, rfl⟩
    · obtain ⟨rfl, rfl⟩ := noDigits_eq_command_iff.mp h
      exact ⟨hop, rfl⟩
    iterate 2
      cases h
      exact ⟨hop, rfl⟩
  · rintro ⟨rfl, hd⟩
    cases i with
    | modred | hotp | totp => exact congrArg _ (congrArg _ hd)
    | _ => exact noDigits_eq_command_iff.mpr ⟨BitVec.eq_of_toNat_eq hd, rfl⟩

/-- The words that decode to a command, by their fields (R102, R103, R105). -/
theorem decode_eq_command_iff {w : Word} {i : Instr} :
    decode w = .command i ↔ opField w = i.opcode ∧ rsvField w = 0 ∧ (digitField w).toNat = i.digits := by
  rw [decode]
  split_ifs with h
  · rw [decodeOp_eq_command_iff]
    exact and_congr_right' (iff_and_self.mpr fun _ => h)
  · exact ⟨nofun, fun ⟨_, hrsv, _⟩ => absurd hrsv h⟩

/-- Settles O1: the word of a command has the fields the decoder asks for. -/
theorem decodeOfEncodeIsTheCommand : Obligations.DecodeOfEncodeIsTheCommand :=
  fun _ hw => decode_eq_command_iff.mpr (encode_fields hw)

/-- Settles O2: the word and the command's own word have the same fields. -/
theorem commandWordIsUnique : Obligations.CommandWordIsUnique := by
  intro w i h
  have hw : WellFormed i := wellFormed_of_decode h
  obtain ⟨hop, hrsv, hd⟩ := decode_eq_command_iff.mp h
  obtain ⟨hop', hrsv', hd'⟩ := encode_fields hw
  exact ⟨hw, word_eq_of_fields (hop'.trans hop.symm) (BitVec.eq_of_toNat_eq (hd'.trans hd.symm))
    (hrsv'.trans hrsv.symm)⟩

/-- Settles O4: the command words are `encode`'s, and the three illegal words are run. -/
theorem opcodeMapWordsDecode : Obligations.OpcodeMapWordsDecode := by
  have hdecode := decodeOfEncodeIsTheCommand
  exact ⟨hdecode .nop (by decide), hdecode .encCtr (by decide), hdecode .hmac (by decide), hdecode .trunc (by decide),
    hdecode (.modred 6) (by decide), hdecode (.modred 15) (by decide), hdecode .tstep (by decide),
    hdecode (.hotp 7) (by decide), hdecode (.totp 8) (by decide), by decide, by decide, by decide⟩

/-! ### Illegal words (R102, R106) -/

/-- What the opcode map refuses: an opcode from 8 on, and a digit count with an opcode that takes none (R106). -/
theorem decodeOp_illegal_iff {op : BitVec 8} {d : BitVec 4} : (∃ why, decodeOp op d = .illegal why) ↔
    8 ≤ op.toNat ∨ (d ≠ 0 ∧ op.toNat ∈ [0x00, 0x01, 0x02, 0x03, 0x05]) := by
  rw [decodeOp]
  split_ifs
  iterate 8 simp [*, noDigits_illegal_iff]
  · have hop : 8 ≤ op.toNat := by bv_omega
    simp [hop]

/-- Settles O3: the reserved field, then what the opcode map refuses, with the fields as numbers. -/
theorem illegalWordsAreExactlyThese : Obligations.IllegalWordsAreExactlyThese := by
  intro w
  have hrsv : w.toNat / 4096 ≠ 0 ↔ rsvField w ≠ 0 := by
    rw [← rsvField_toNat]
    exact BitVec.toNat_ne_iff_ne (y := 0)
  have hd : w.toNat / 256 % 16 ≠ 0 ↔ digitField w ≠ 0 := by
    rw [← digitField_toNat]
    exact BitVec.toNat_ne_iff_ne (y := 0)
  rw [← opField_toNat, hrsv, hd, decode]
  split_ifs with h
  · rw [decodeOp_illegal_iff, or_iff_right (not_not.mpr h)]
  · exact ⟨fun _ => .inl h, fun _ => ⟨_, rfl⟩⟩

/-- Settles O7: an idle block rejects a word that does not decode. -/
theorem illegalWordRaisesIllegal : Obligations.IllegalWordRaisesIllegal := by
  intro s w es hs hr hp hw
  obtain ⟨why, hd⟩ := (illegalWordsAreExactlyThese w).mpr hw
  rw [step_write hs hr (by decide) (by decide)]
  exact (hostWrite_cmd_of_idle (s := { s with script := es }) hp w).trans (presentCommand_of_illegal hd _)

/-! ### The events of `ldkey` (R111) -/

/-- A run continues where a shorter one ended. -/
theorem run_add_of_next {n : Nat} {s t : State} (h : run n s = .next t) (k : Nat) : run (n + k) s = run k t := by
  induction n generalizing s with
  | zero =>
    cases h
    rw [Nat.zero_add]
  | succ n ih =>
    obtain ⟨u, hstep, hrun⟩ := run_succ_next h
    rw [Nat.succ_add, run_succ_of_next hstep, ih hrun]

/-- The bytes of a padded word that lie in the string are the string's (R111). -/
theorem wordBytes_paddedWord_getElem? {bs : List Byte} {k j : Nat} (hj : j < 4) (h : 4 * k + j < bs.length) :
    (wordBytes (paddedWord bs k))[j]? = bs[4 * k + j]? := by
  rw [paddedWord, wordBytes_wordOfBytes _ (by simp), List.getElem?_take_of_lt hj,
    List.getElem?_append_left (by simp; omega), List.getElem?_take_of_lt hj, List.getElem?_drop]

/-- One more padded word holds up to four more bytes of the string. -/
theorem Memory.Holds.setBytes_paddedWord {m : Memory} {bs : List Byte} {k : Nat} (h : m.Holds (bs.take (4 * k))) :
    (m.setBytes (4 * k) (wordBytes (paddedWord bs k))).Holds (bs.take (4 * (k + 1))) := by
  intro j hj
  rw [List.length_take] at hj
  rw [List.getElem_take]
  by_cases hlow : j < 4 * k
  · rw [Memory.get?_setBytes_of_outside _ _ _ _ (.inl hlow), h j (by simp; omega), List.getElem_take]
  · obtain ⟨i, rfl⟩ := Nat.exists_eq_add_of_le (not_lt.mp hlow)
    rw [Memory.get?_setBytes_of_inside _ _ _ _ (by simp; omega), wordBytes_paddedWord_getElem? (by omega) (by omega),
      List.getElem?_eq_getElem]

/-- A write of a KEY word below KEY_MAX to an idle block (R45, R76). -/
theorem step_write_keyWord {s : State} {es : List PortEvent} {k : Nat} {w : Word}
    (hs : s.script = memWrite s.config (0x100 + 4 * k) w :: es) (hr : s.rst = false) (hp : s.pending = none)
    (hk : k < 64) (hmax : 4 * k < s.config.keyMax) :
    step s = .next { s with script := es, key := s.key.setBytes (4 * k) (wordBytes w) } := by
  rw [step_write_of_idle hs hr hp (by omega) (by omega) (regAt_keyWord hk) (by simp), storeReg, if_pos (by exact hmax)]

/-- The first n key words of `ldkey`, by induction on n: they load the first 4n bytes of the string. -/
theorem run_loadKeyWords {s : State} {bs : List Byte} {n : Nat} (es : List PortEvent)
    (hs : s.script = (List.range n).map (fun k => memWrite s.config (0x100 + 4 * k) (paddedWord bs k)) ++ es)
    (hr : s.rst = false) (hp : s.pending = none) (hn : n ≤ 64) (hmax : 4 * n < s.config.keyMax + 4) :
    ∃ m : Memory, run n s = .next { s with script := es, key := m } ∧ m.Holds (bs.take (4 * n)) := by
  induction n generalizing es with
  | zero =>
    obtain rfl : s.script = es := hs
    exact ⟨s.key, rfl, fun j hj => by simp at hj⟩
  | succ n ih =>
    rw [List.range_succ, List.map_append, List.append_assoc] at hs
    obtain ⟨m, hrun, hholds⟩ := ih _ hs (by omega) (by omega)
    have hstep := step_write_keyWord (k := n) (w := paddedWord bs n) (es := es)
      (s := { s with script := memWrite s.config (0x100 + 4 * n) (paddedWord bs n) :: es, key := m })
      rfl hr hp (by omega) (by dsimp only; omega)
    exact ⟨_, (run_add_of_next hrun 1).trans (run_succ_of_next hstep), hholds.setBytes_paddedWord⟩

/-- Settles O60: the key words load the string, and the last write its length, which fits KEYLEN (R7, R36). -/
theorem ldkeyLoadsTheKey : Obligations.LdkeyLoadsTheKey := by
  rintro s bs es ⟨⟨-, -, hlegal⟩, -⟩ hr hp hasm hs
  rw [AsmLine.assemble] at hasm
  split_ifs at hasm with hlen
  cases hasm
  obtain ⟨m, hrun, hholds⟩ := run_loadKeyWords (bs := bs) _ hs hr hp (by omega) (by omega)
  rw [List.take_of_length_le (by omega)] at hholds
  have hstep := step_write_of_idle (r := .keylen)
    (s := { s with script := [memWrite s.config 0x014 (BitVec.ofNat 32 bs.length)], key := m })
    rfl hr hp (by decide) (by decide) rfl (by decide)
  have hlength : (asmLoadBytes s.config 0x100 0x014 bs).length = (bs.length + 3) / 4 + 1 := by simp [asmLoadBytes]
  rw [hlength]
  refine ⟨_, (run_add_of_next hrun 1).trans (run_succ_of_next hstep), rfl, ?_, hholds⟩
  simp [storeReg]
  omega

end Sys2Proof.Machine
end

section
/-! PROOFS. The counter encoder (R130): its bytes and its inverse; and the completion of ENC_CTR (R131). -/

namespace Sys2Proof.Machine

/-! ### The bytes of the counter (R130) -/

/-- Byte i of the encoded counter, as bits of the counter (R130). -/
theorem encodeCounter_getElem? (c : BitVec 64) {i : Nat} (h : i < 8) :
    (encodeCounter c)[i]? = some (c.extractLsb' (56 - 8 * i) 8) := by
  rw [List.getElem?_eq_getElem (by simpa using h)]
  simp only [encodeCounter, beBytes_getElem, BitVec.extractLsb']
  rw [show 8 * (8 - 1 - i) = 56 - 8 * i by omega]

theorem beValue_encodeCounter (c : BitVec 64) : beValue (encodeCounter c) = c.toNat := beValue_beBytes 8 _ c.isLt

theorem encodeCounter_beValue {bs : List Byte} (h : bs.length = 8) :
    encodeCounter (BitVec.ofNat 64 (beValue bs)) = bs := by
  have hlt : beValue bs < 2 ^ 64 := by simpa [h] using beValue_lt bs
  rw [encodeCounter, BitVec.toNat_ofNat, Nat.mod_eq_of_lt hlt, ← h, beBytes_beValue]

/-- Settles O28: the encoder is `be_bytes_8` of the counter, and 8 bytes hold exactly the 64-bit values. -/
theorem counterEncodingIsABijection : Obligations.CounterEncodingIsABijection :=
  ⟨fun c => ⟨encodeCounter_length c, beValue_encodeCounter c, fun _ => encodeCounter_getElem? c⟩,
    fun _ => encodeCounter_beValue⟩

/-! ### The counter in MSG (R131) -/

/-- The eight bits from 8k up are digit k in base 256. -/
theorem extractLsb'_byte_eq_ofNat_div {n : Nat} (c : BitVec n) (k : Nat) :
    c.extractLsb' (8 * k) 8 = BitVec.ofNat 8 (c.toNat / 256 ^ k) := by
  rw [BitVec.extractLsb', Nat.shiftRight_eq_div_pow, pow_mul, show 2 ^ 8 = 256 by norm_num]

/-- A counter stored in MSG: its eight bytes as numbers, and every other byte as before (R131). -/
theorem Memory.setBytes_encodeCounter (m : Memory) (c : BitVec 64) :
    (∀ a, a < 8 → (m.setBytes 0 (encodeCounter c)).get? a = some (BitVec.ofNat 8 (c.toNat / 256 ^ (7 - a)))) ∧
    (∀ a, 8 ≤ a → (m.setBytes 0 (encodeCounter c)).get? a = m.get? a) := by
  constructor
  · intro a ha
    have hget := Memory.get?_setBytes_of_inside (encodeCounter c) m 0 a (by simpa using ha)
    rw [Nat.zero_add] at hget
    rw [hget, encodeCounter_getElem? c ha, ← extractLsb'_byte_eq_ofNat_div, show 8 * (7 - a) = 56 - 8 * a by omega]
  · intro a ha
    exact Memory.get?_setBytes_of_outside _ _ _ _ (.inr (by simpa using ha))

/-- Settles O13: the pending command completes, and its only writes are those of `storeEncoded`. -/
theorem encCtrCompletes : Obligations.EncCtrCompletes := fun s hp =>
  ⟨_, exec_of_pending hp, rfl, Memory.setBytes_encodeCounter s.msg s.ctr⟩

end Sys2Proof.Machine
end

section
/-! PROOFS. SHA-1: the schedule (R144), the padding (R141), the compression and the chaining of blocks (R143 to R148).
HMAC-SHA1: the block key (R151), the two hashes (R152), and the completion of HMAC (R154). -/

namespace Sys2Proof.Machine

/-! ### The schedule (R144) -/

theorem sha1Extend_add (m n : Nat) (ws : List Word) : sha1Extend (m + n) ws = sha1Extend m (sha1Extend n ws) := by
  induction n generalizing ws with
  | zero => rfl
  | succ n ih => exact ih _

/-- The last word of an extension is the next word after those before it. -/
theorem sha1Extend_succ_eq_cons (n : Nat) (ws : List Word) :
    sha1Extend (n + 1) ws = sha1NextWord (sha1Extend n ws) :: sha1Extend n ws := by
  rw [Nat.add_comm, sha1Extend_add]
  rfl

@[simp] theorem sha1BlockWords_length (block : List Byte) : (sha1BlockWords block).length = 16 := by
  simp [sha1BlockWords]

/-- The first n + 16 words of the schedule are known once n words follow those of the block. -/
theorem sha1Schedule_getElem? (block : List Byte) {n t : Nat} (hn : n ≤ 64) (ht : t < n + 16) :
    (sha1Schedule block)[t]? = (sha1Extend n (sha1BlockWords block).reverse)[n + 15 - t]? := by
  have hlength : (sha1Extend 64 (sha1BlockWords block).reverse).length = 80 := by
    simp [sha1Extend_length]
  obtain ⟨later, hlater⟩ := Nat.exists_eq_add_of_le' hn
  have hdrop : (sha1Extend 64 (sha1BlockWords block).reverse).drop later =
      sha1Extend n (sha1BlockWords block).reverse := by
    rw [hlater, sha1Extend_add, sha1Extend_drop]
  rw [sha1Schedule, List.getElem?_reverse (by omega), hlength, ← hdrop, List.getElem?_drop,
    show later + (n + 15 - t) = 80 - 1 - t by omega]

theorem sha1Schedule_getElem?_of_lt (block : List Byte) {t : Nat} (ht : t < 16) :
    (sha1Schedule block)[t]? = some (wordAt block t) := by
  rw [sha1Schedule_getElem? block (Nat.zero_le 64) ht, sha1Extend, List.getElem?_reverse (by simp; omega),
    sha1BlockWords_length, show 16 - 1 - (0 + 15 - t) = t by omega]
  simp [sha1BlockWords, ht]

/-- The word that stands i behind the latest of n + 16 words is word n + 15 - i of the schedule. -/
theorem sha1Extend_getD (block : List Byte) {n i : Nat} (hn : n ≤ 64) (hi : i < 16) :
    (sha1Extend n (sha1BlockWords block).reverse).getD i 0 = (sha1Schedule block).getD (n + 15 - i) 0 := by
  rw [List.getD_eq_getElem?_getD, List.getD_eq_getElem?_getD, sha1Schedule_getElem? block hn (by omega),
    show n + 15 - (n + 15 - i) = i by omega]

/-- Word n + 16 of the schedule comes from the words 3, 8, 14 and 16 before it (R144). -/
theorem sha1Schedule_recurrence (block : List Byte) {n : Nat} (hn : n < 64) : (sha1Schedule block).getD (n + 16) 0 =
    ((sha1Schedule block).getD (n + 13) 0 ^^^ (sha1Schedule block).getD (n + 8) 0 ^^^
      (sha1Schedule block).getD (n + 2) 0 ^^^ (sha1Schedule block).getD n 0).rotateLeft 1 := by
  have hnew := sha1Extend_getD block (n := n + 1) (i := 0) hn (by decide)
  rw [sha1Extend_succ_eq_cons] at hnew
  calc (sha1Schedule block).getD (n + 16) 0
      = sha1NextWord (sha1Extend n (sha1BlockWords block).reverse) := hnew.symm
    _ = _ := by
      rw [sha1NextWord]
      iterate 4 rw [sha1Extend_getD block hn.le (by decide)]
      rfl

/-- Settles O31: the words of the block, and then the recurrence at t = n + 16. -/
theorem sha1ScheduleRecurrence : Obligations.Sha1ScheduleRecurrence := by
  refine fun block => ⟨sha1Schedule_length block, fun t => sha1Schedule_getElem?_of_lt block, fun t h16 h80 => ?_⟩
  obtain ⟨n, rfl⟩ := Nat.exists_eq_add_of_le' h16
  exact sha1Schedule_recurrence block (by omega)

/-! ### The padding (R141) -/

/-- `sha1ZeroCount` is a zero count that fills whole blocks. -/
theorem sha1ZeroCount_fills (n : Nat) : (n + 1 + sha1ZeroCount n) % 64 = 56 := by
  rw [sha1ZeroCount]
  omega

/-- No smaller zero count does. -/
theorem sha1ZeroCount_least {n j : Nat} (h : j < sha1ZeroCount n) : (n + 1 + j) % 64 ≠ 56 := by
  rw [sha1ZeroCount] at h
  omega

theorem sha1Pad_length (m : List Byte) : (sha1Pad m).length = 64 * sha1BlockCount m.length := by
  simp only [sha1Pad, sha1BlockCount, sha1ZeroCount, List.length_append, List.length_singleton, List.length_replicate,
    beBytes_length]
  omega

/-- Settles O30: k is `sha1ZeroCount` of the message's length. -/
theorem sha1PaddingFillsWholeBlocks : Obligations.Sha1PaddingFillsWholeBlocks := fun m =>
  ⟨sha1ZeroCount m.length, rfl, sha1ZeroCount_fills _, fun _ => sha1ZeroCount_least, sha1Pad_length m⟩

/-! ### The compression and the chaining of blocks (R143 to R148) -/

/-- The 80 rounds of a block as one fold over their numbers (R146). -/
theorem sha1Rounds_schedule (h : HashWords) (block : List Byte) : sha1Rounds 0 (sha1Schedule block) h =
    (List.range 80).foldl (fun x t => sha1Round t ((sha1Schedule block).getD t 0) x) h := by
  simp only [sha1Rounds_eq_foldl, sha1Schedule_length, Nat.zero_add]

/-- The five words of a hash value, each big-endian (R147, R149). -/
theorem HashWords.toDigest_toList (h : HashWords) : h.toDigest.toList =
    wordBytes h.a ++ wordBytes h.b ++ wordBytes h.c ++ wordBytes h.d ++ wordBytes h.e := rfl

/-- The digest of a message as bytes: the hash value its blocks chain to (R147). -/
theorem sha1_toList (m : List Byte) :
    (sha1 m).toList = (sha1Blocks (sha1BlockCount m.length) (sha1Pad m) sha1Init).toDigest.toList := by
  rw [sha1]

/-- Settles O29: the four digests are run; the compression and the chaining hold by the folds of the rounds and of the
blocks. -/
theorem sha1StandardDigests : Obligations.Sha1StandardDigests :=
  ⟨by decide +kernel, by decide +kernel, by decide +kernel, by decide +kernel,
    fun h block => ⟨sha1Rounds 0 (sha1Schedule block) h, sha1Rounds_schedule h block, rfl⟩,
    fun m => ⟨sha1Blocks (sha1BlockCount m.length) (sha1Pad m) sha1Init, rfl,
      (sha1_toList m).trans (HashWords.toDigest_toList _)⟩⟩

/-! ### The block key and the two hashes (R151, R152) -/

theorem hmacBlockKey_of_le {k : List Byte} (h : k.length ≤ 64) :
    hmacBlockKey k = k ++ List.replicate (64 - k.length) 0 := by
  rw [hmacBlockKey, hmacShortKey_of_le k h, hmacBlockBytes]

/-- A key longer than a block counts as its digest (R151). -/
theorem hmacBlockKey_of_gt {k : List Byte} (h : 64 < k.length) : hmacBlockKey k = hmacBlockKey (sha1 k).toList := by
  rw [hmacBlockKey, hmacBlockKey, hmacShortKey_of_gt k h, hmacShortKey_of_le (sha1 k).toList (by simp)]

/-- A digest as a key is padded with 44 zero bytes (R151). -/
theorem hmacBlockKey_digest (dg : Digest) : hmacBlockKey dg.toList = dg.toList ++ List.replicate 44 0 := by
  rw [hmacBlockKey_of_le (by simp), Vector.length_toList]

/-- A trailing zero byte of a key shorter than a block is one of the padding. -/
theorem hmacBlockKey_concat_zero {k : List Byte} (h : k.length < 64) : hmacBlockKey (k ++ [0]) = hmacBlockKey k := by
  have hzeros : 64 - k.length = 1 + (64 - (k ++ [0]).length) := by simp; omega
  rw [hmacBlockKey_of_le (by simpa using h), hmacBlockKey_of_le h.le, hzeros, List.replicate_add, List.append_assoc]
  rfl

/-- The key counts only through its block key (R152). -/
theorem hmacSha1_congr {k k' : List Byte} (h : hmacBlockKey k = hmacBlockKey k') (m : List Byte) :
    hmacSha1 k m = hmacSha1 k' m := by
  rw [hmacSha1, hmacSha1, h]

/-- Settles O32: the block key is `hmacBlockKey`, and the three vectors are run. -/
theorem hmacKeyPreparation : Obligations.HmacKeyPreparation := by
  refine ⟨fun k m => ⟨hmacBlockKey k, hmacBlockKey_length k, hmacBlockKey_of_le, fun h => ?_, hmacSha1.eq_1 k m⟩,
    fun k m h => hmacSha1_congr (hmacBlockKey_of_gt h) m, fun k m h => hmacSha1_congr (hmacBlockKey_concat_zero h) m,
    by decide +kernel, by decide +kernel, by decide +kernel⟩
  rw [hmacBlockKey_of_gt h, hmacBlockKey_digest]

/-! ### The completion of HMAC (R154) -/

/-- The engine's writes over written key and message bytes, which draw no free byte (R54, R154). -/
theorem hmacEffect_of_written {s : State} {k m : List Byte} (hk : s.readKey = (k, s.draws))
    (hm : s.readMsg s.draws = (m, s.draws)) : hmacEffect s = { s with digest := hmacSha1 k m } := by
  simp only [hmacEffect, hk, hm]
  rfl

/-- Settles O14: the pending command completes on the bytes the two buffers hold. -/
theorem hmacCompletes : Obligations.HmacCompletes := by
  intro s k m hp hklen hk hmlen hm
  rw [exec_of_pending hp, effectOf, hmacEffect_of_written (readKey_of_written hklen hk) (readMsg_of_written _ hmlen hm)]
  rfl

end Sys2Proof.Machine
end

section
/-! PROOFS. The dynamic truncator (R180): its offset, its window and its masked value as numbers; and the completion of
TRUNC (R181). -/

namespace Sys2Proof.Machine

/-! ### The value of four bytes less bit 31 -/

/-- A word shifted up over the bits of another adds to it. -/
theorem shiftLeft_or_toNat {x y : Word} {k : Nat} (hx : x.toNat * 2 ^ k < 2 ^ 32) (hy : y.toNat < 2 ^ k) :
    (x <<< k ||| y).toNat = x.toNat * 2 ^ k + y.toNat := by
  rw [BitVec.toNat_or, BitVec.toNat_shiftLeft, Nat.shiftLeft_eq, Nat.mod_eq_of_lt hx, Nat.mul_comm,
    Nat.two_pow_add_eq_or_of_lt hy]

theorem and_0x7F_toNat (a : Byte) : (a &&& 0x7F).toNat = a.toNat % 2 ^ 7 :=
  (BitVec.toNat_and _ _).trans (Nat.and_two_pow_sub_one_eq_mod a.toNat 7)

/-- The four bytes as `truncate` puts them together: clearing the top bit of the first takes the value mod 2^31 (R180). -/
theorem maskedWord_toNat (a b c d : Byte) :
    (((a &&& 0x7F).setWidth 32) <<< 24 ||| (b.setWidth 32) <<< 16 ||| (c.setWidth 32) <<< 8 ||| d.setWidth 32
      : Word).toNat = beValue [a, b, c, d] % 2 ^ 31 := by
  have ha : ((a &&& 0x7F).setWidth 32).toNat = a.toNat % 2 ^ 7 := by
    rw [BitVec.toNat_setWidth_of_le (by decide), and_0x7F_toNat]
  have hbyte (x : Byte) : (x.setWidth 32).toNat = x.toNat := BitVec.toNat_setWidth_of_le (by decide)
  have hb := b.isLt
  have hc := c.isLt
  have hd := d.isLt
  have hcd := shiftLeft_or_toNat (x := c.setWidth 32) (y := d.setWidth 32) (k := 8) (by rw [hbyte]; omega)
    (by rw [hbyte]; omega)
  have hbcd := shiftLeft_or_toNat (x := b.setWidth 32) (k := 16) (by rw [hbyte]; omega)
    (show (c.setWidth 32 <<< 8 ||| d.setWidth 32 : Word).toNat < 2 ^ 16 by rw [hcd, hbyte, hbyte]; omega)
  rw [hcd, hbyte, hbyte, hbyte] at hbcd
  rw [BitVec.or_assoc, BitVec.or_assoc, shiftLeft_or_toNat (by rw [ha]; omega) (by rw [hbcd]; omega), hbcd, ha,
    beValue_four]
  omega

/-! ### The offset and the window (R180) -/

theorem truncOffset_toNat (dg : Digest) : (truncOffset dg).toNat = dg[19].toNat % 16 := by
  rw [truncOffset, BitVec.extractLsb'_toNat, Nat.shiftRight_zero]

/-- The window is the four bytes of the digest from the offset on. -/
theorem take_four_drop_truncOffset (dg : Digest) : (dg.toList.drop (truncOffset dg).toNat).take 4 =
    [windowByte dg 0, windowByte dg 1, windowByte dg 2, windowByte dg 3] := by
  have ho := (truncOffset dg).isLt
  rw [take_four_drop _ _ (by simp; omega)]
  simp [windowByte]

theorem truncate_value_toNat (dg : Digest) :
    (truncate dg).2.toNat = beValue ((dg.toList.drop (truncate dg).1.toNat).take 4) % 2 ^ 31 := by
  rw [truncate, maskedWord_toNat, ← take_four_drop_truncOffset]

/-- Two digests with one low nibble of byte 19 have one offset, whatever the upper nibbles are. -/
theorem truncOffset_congr {dg dg' : Digest} (h : dg[19].toNat % 16 = dg'[19].toNat % 16) :
    truncOffset dg = truncOffset dg' :=
  BitVec.eq_of_toNat_eq (by rw [truncOffset_toNat, truncOffset_toNat, h])

/-- The window ends at byte 18, so byte 19 counts only through the offset. -/
theorem windowByte_congr {dg dg' : Digest} (h : ∀ i (hi : i < 19), dg[i] = dg'[i])
    (ho : truncOffset dg = truncOffset dg') (i : Fin 4) : windowByte dg i = windowByte dg' i := by
  have hlt := (truncOffset dg').isLt
  simp only [windowByte, ho]
  exact h _ (by omega)

/-- Settles O33: the offset, the window and the value are those of `truncate`, and byte 19 is outside the window. -/
theorem truncationSelectsTheWindow : Obligations.TruncationSelectsTheWindow := by
  refine ⟨fun dg => ⟨truncOffset_toNat dg, ?_, truncate_value_toNat dg, ?_⟩, fun dg dg' hbytes hnibble => ?_⟩
  · have ho : (truncate dg).1.toNat < 16 := (truncate dg).1.isLt
    omega
  · rw [truncate_value_toNat]
    exact Nat.mod_lt _ (by decide)
  · have ho := truncOffset_congr hnibble
    simp only [truncate, ho, windowByte_congr hbytes ho]

/-! ### The completion of TRUNC (R181) -/

/-- Settles O16: the pending command completes, and its only writes are those of `storeWindow`. -/
theorem truncCompletes : Obligations.TruncCompletes := fun s hp =>
  ⟨_, exec_of_pending hp, rfl, truncOffset_toNat s.digest, truncate_value_toNat s.digest⟩

end Sys2Proof.Machine
end

section
/-! PROOFS. The modular reducer (R190) as a number, and the completion of MODRED (R192). -/

namespace Sys2Proof.Machine

/-! ### The reducer (R190) -/

/-- A remainder is at most its dividend, so CODE holds every bit of it. -/
@[simp] theorem reduce_toNat (v : Word) (d : Nat) : (reduce v d).toNat = v.toNat % 10 ^ d := by
  rw [reduce, BitVec.toNat_ofNat]
  exact Nat.mod_eq_of_lt ((Nat.mod_le _ _).trans_lt v.isLt)

theorem reduce_toNat_lt (v : Word) (d : Nat) : (reduce v d).toNat < 10 ^ d := by
  rw [reduce_toNat]
  exact Nat.mod_lt _ (by positivity)

theorem reduce_toNat_le (v : Word) (d : Nat) : (reduce v d).toNat ≤ v.toNat := by
  rw [reduce_toNat]
  exact Nat.mod_le _ _

theorem reduce_zero (v : Word) : reduce v 0 = 0 :=
  BitVec.eq_of_toNat_eq (by rw [reduce_toNat, pow_zero, Nat.mod_one]; rfl)

/-- From ten digits on the modulus is above every 32-bit value. -/
theorem reduce_of_ten_le (v : Word) {d : Nat} (h : 10 ≤ d) : reduce v d = v := by
  have hv : v.toNat < 10 ^ d := calc
    v.toNat < 2 ^ 32 := v.isLt
    _ < 10 ^ 10 := by norm_num
    _ ≤ 10 ^ d := Nat.pow_le_pow_right (by norm_num) h
  exact BitVec.eq_of_toNat_eq (by rw [reduce_toNat, Nat.mod_eq_of_lt hv])

/-- Settles O34: each law is a fact about the remainder that `reduce` is. -/
theorem reductionIsTheRemainder : Obligations.ReductionIsTheRemainder := fun v d =>
  ⟨reduce_toNat v d, reduce_toNat_lt v d, reduce_toNat_le v d, reduce_zero v, reduce_of_ten_le v⟩

/-! ### The completion of MODRED (R192) -/

/-- Settles O17: the pending command completes, and its only write is that of `storeCode`. -/
theorem modredCompletes : Obligations.ModredCompletes := fun s d hp =>
  ⟨_, exec_of_pending hp, rfl, reduce_toNat s.trunc d⟩

end Sys2Proof.Machine
end

section
/-! PROOFS. The time-step divider (R200, R201) as a number, the completion of TSTEP (R202), and the refusal of a zero
INTERVAL (R202, R214). -/

namespace Sys2Proof.Machine

/-! ### The divider (R200, R201) -/

/-- A value is the divider's answer when it is the quotient as a number. -/
theorem timeCounter_eq_of_div_eq {t i q : BitVec 64} (hi : i ≠ 0) (h : t.toNat / i.toNat = q.toNat) :
    timeCounter t i = q :=
  BitVec.eq_of_toNat_eq ((timeCounter_toNat hi t).trans h)

theorem timeCounter_toNat_le {i : BitVec 64} (hi : i ≠ 0) (t : BitVec 64) : (timeCounter t i).toNat ≤ t.toNat := by
  rw [timeCounter_toNat hi]
  exact Nat.div_le_self _ _

theorem timeCounter_one (t : BitVec 64) : timeCounter t 1 = t :=
  timeCounter_eq_of_div_eq (by decide) (Nat.div_one _)

/-- The count is 0 before the first interval has passed; an interval longer than the epoch is not 0. -/
theorem timeCounter_of_lt {t i : BitVec 64} (h : t.toNat < i.toNat) : timeCounter t i = 0 := by
  have hi : i ≠ 0 := by
    rintro rfl
    exact Nat.not_lt_zero _ h
  exact timeCounter_eq_of_div_eq hi (Nat.div_eq_of_lt h)

theorem timeCounter_self {i : BitVec 64} (hi : i ≠ 0) : timeCounter i i = 1 := by
  have hpos : 0 < i.toNat := Nat.pos_of_ne_zero fun h => hi (BitVec.eq_of_toNat_eq h)
  exact timeCounter_eq_of_div_eq hi (Nat.div_self hpos)

/-- Settles O35: the laws are facts about the natural quotient that `timeCounter` is, and the document's three values
are divided as numbers. -/
theorem timeCounterIsTheQuotient : Obligations.TimeCounterIsTheQuotient :=
  ⟨fun t _ hi => ⟨timeCounter_toNat hi t, timeCounter_toNat_le hi t⟩, timeCounter_one, fun _ _ => timeCounter_of_lt,
    timeCounter_self (by decide), timeCounter_eq_of_div_eq (by decide) (by decide), timeCounter_of_lt (by decide),
    timeCounter_eq_of_div_eq (by decide) (by decide)⟩

/-! ### The completion of TSTEP (R202) -/

/-- Settles O18: the pending command completes, and its only write is that of `storeCtr`. -/
theorem tstepCompletes : Obligations.TstepCompletes := fun s hp hi =>
  ⟨_, exec_of_pending hp, rfl, timeCounter_toNat hi s.epoch⟩

/-! ### The refusal of a zero INTERVAL (R202, R214, R232) -/

/-- An idle block refuses a command whose operands fail R232's check, and changes CMD_LAST and STATUS only (R235). -/
theorem exec_of_failed_check {i : Instr} {s : State} {k : ErrorCode} (hp : s.pending = none)
    (h : acceptanceCheck i s = some k) :
    exec i s = .next { s with cmdLast := encode i, done := false, err := true, errcode := k.code } := by
  rw [exec_of_idle i hp, accept, firstError_checksOf, h]
  rfl

/-- A zero INTERVAL is the first failing check of a command that divides by it, unless its digit count is bad (R232). -/
theorem acceptanceCheck_eq_interval {i : Instr} {s : State} (hi : s.interval = 0) (hdiv : dividesByInterval i = true)
    (hd : validatesDigits i = true → i.digits = 6 ∨ i.digits = 7 ∨ i.digits = 8) :
    acceptanceCheck i s = some .interval := by
  rw [acceptanceCheck, if_neg fun ⟨hv, hbad⟩ => hbad (hd hv), if_pos ⟨hdiv, hi⟩]

/-- Settles O11: both commands divide by INTERVAL, and only TOTP checks a digit count before it. -/
theorem zeroIntervalRaisesInterval : Obligations.ZeroIntervalRaisesInterval := by
  intro s d hp hi h6 h8
  have hd : d = 6 ∨ d = 7 ∨ d = 8 := by omega
  have htstep : acceptanceCheck .tstep s = some .interval :=
    acceptanceCheck_eq_interval hi rfl fun hv => Bool.noConfusion hv
  have htotp : acceptanceCheck (.totp d) s = some .interval := acceptanceCheck_eq_interval hi rfl fun _ => hd
  exact ⟨exec_of_failed_check hp htstep, exec_of_failed_check hp htotp⟩

end Sys2Proof.Machine
end

section
/-! PROOFS. The pipeline commands: NOP (R210), and HOTP and TOTP (R211 to R216): the refusal of a bad digit count, their
completion over written keys, what decides their results, and their runs against those of their single stages (R218). -/

namespace Sys2Proof.Machine

/-! ### The checks at acceptance (R211, R214, R232) -/

/-- The digit count is the first of R232's checks, so no other operand counts when it is bad. -/
theorem acceptanceCheck_eq_digits {i : Instr} {s : State} (hv : validatesDigits i = true)
    (hd : ¬(i.digits = 6 ∨ i.digits = 7 ∨ i.digits = 8)) : acceptanceCheck i s = some .digits := by
  rw [acceptanceCheck, if_pos ⟨hv, hd⟩]

/-- A command whose operands pass each check that applies to it is accepted (R232). -/
theorem acceptanceCheck_eq_none {i : Instr} {s : State}
    (hd : validatesDigits i = true → i.digits = 6 ∨ i.digits = 7 ∨ i.digits = 8)
    (hi : dividesByInterval i = true → s.interval ≠ 0) (hk : readsKey i = true → s.keylen.toNat ≤ s.config.keyMax)
    (hm : i = .hmac → s.msglen.toNat ≤ s.config.msgMax) : acceptanceCheck i s = none := by
  rw [acceptanceCheck, if_neg fun ⟨hv, hbad⟩ => hbad (hd hv), if_neg fun ⟨hdiv, hzero⟩ => hi hdiv hzero,
    if_neg fun ⟨hr, hlong⟩ => (hk hr).not_gt hlong, if_neg fun ⟨hh, hlong⟩ => (hm hh).not_gt hlong]

/-- Settles O10: both commands validate their digit count before anything else. -/
theorem badDigitCountRaisesDigits : Obligations.BadDigitCountRaisesDigits := by
  intro s d hp hd
  have hbad : ¬(d = 6 ∨ d = 7 ∨ d = 8) := by omega
  have hhotp : acceptanceCheck (.hotp d) s = some .digits := acceptanceCheck_eq_digits rfl hbad
  have htotp : acceptanceCheck (.totp d) s = some .digits := acceptanceCheck_eq_digits rfl hbad
  exact ⟨exec_of_failed_check hp hhotp, exec_of_failed_check hp htotp⟩

/-! ### Completion (R210, R212, R215) -/

/-- Settles O12: a pending NOP completes, and has no effect before PENDING is emptied. -/
theorem nopCompletes : Obligations.NopCompletes := fun _ hp => exec_of_pending hp

/-- TOTP is HOTP on the counter that TSTEP stores (R202, R215). -/
theorem totpEffect_eq (d : Nat) (s : State) : totpEffect d s = hotpEffect d (tstepEffect s) := rfl

/-- The pipeline's writes over a key that reads without a free byte drawn (R54, R212). -/
theorem hotpEffect_of_written {s : State} {k : List Byte} (d : Nat) (hk : s.readKey = (k, s.draws)) :
    hotpEffect d s = { s with
      msg := s.msg.setBytes 0 (encodeCounter s.ctr)
      msglen := 8
      digest := hmacSha1 k (encodeCounter s.ctr)
      offset := (truncate (hmacSha1 k (encodeCounter s.ctr))).1
      trunc := (truncate (hmacSha1 k (encodeCounter s.ctr))).2
      code := reduce (truncate (hmacSha1 k (encodeCounter s.ctr))).2 d } := by
  rw [hotpEffect, codePipeline_eq d rfl, hk]

/-- Settles O19: the pipeline runs on CTR, and each stage's result is known as a number. -/
theorem hotpCompletes : Obligations.HotpCompletes := by
  intro s d k hp hlen hholds
  obtain ⟨hcounter, hrest⟩ := Memory.setBytes_encodeCounter s.msg s.ctr
  refine ⟨_, exec_of_pending hp, ?_⟩
  rw [effectOf, hotpEffect_of_written d (readKey_of_written hlen hholds)]
  exact ⟨rfl, hcounter, hrest, truncOffset_toNat _, truncate_value_toNat _, reduce_toNat _ d⟩

/-- Settles O20: the pipeline runs in the state that already holds the quotient as CTR. -/
theorem totpCompletes : Obligations.TotpCompletes := by
  intro s d k hp hi hlen hholds
  obtain ⟨hcounter, hrest⟩ := Memory.setBytes_encodeCounter s.msg (timeCounter s.epoch s.interval)
  refine ⟨_, exec_of_pending hp, ?_⟩
  rw [effectOf, totpEffect_eq, hotpEffect_of_written (s := tstepEffect s) d (readKey_of_written hlen hholds)]
  exact ⟨rfl, timeCounter_toNat hi s.epoch, hcounter, hrest, truncOffset_toNat _, truncate_value_toNat _,
    reduce_toNat _ d⟩

/-! ### What decides the results (R213, R216) -/

/-- A range of written bytes holds some list of bytes (R54). -/
theorem Memory.Written.exists_holds {m : Memory} {n : Nat} (h : m.Written n) :
    ∃ bs : List Byte, bs.length = n ∧ m.Holds bs := by
  refine ⟨List.ofFn fun a : Fin n => (m.get? a).get (h a a.isLt), List.length_ofFn, fun j hj => ?_⟩
  simp

/-- Two states with the same written key read it the same, and draw no free byte (R36, R54). -/
theorem readKey_of_same_written_key {s t : State} (hlen : s.keylen = t.keylen) (hw : s.key.Written s.keylen.toNat)
    (hkey : ∀ a, a < s.keylen.toNat → s.key.get? a = t.key.get? a) :
    ∃ k, s.readKey = (k, s.draws) ∧ t.readKey = (k, t.draws) := by
  obtain ⟨k, hk, hholds⟩ := hw.exists_holds
  exact ⟨k, readKey_of_written hk hholds,
    readKey_of_written (hlen ▸ hk) fun j hj => (hkey j (hk ▸ hj)).symm.trans (hholds j hj)⟩

/-- Settles O25: the two pipelines run on one key and one counter. -/
theorem hotpDependsOnKeyCounterAndDigitsOnly : Obligations.HotpDependsOnKeyCounterAndDigitsOnly := by
  intro s t d hps hpt hlen hctr hw hkey
  obtain ⟨k, hks, hkt⟩ := readKey_of_same_written_key hlen hw hkey
  refine ⟨_, _, exec_of_pending hps, exec_of_pending hpt, ?_⟩
  rw [effectOf, effectOf, hotpEffect_of_written d hks, hotpEffect_of_written d hkt, hctr]
  exact ⟨rfl, rfl, rfl, rfl⟩

/-- Settles O26: within one interval the quotient is one counter, and the two pipelines run on it with one key. -/
theorem totpIsConstantWithinAnInterval : Obligations.TotpIsConstantWithinAnInterval := by
  intro s t d hps hpt hint hi hquot hlen hw hkey
  obtain ⟨k, hks, hkt⟩ := readKey_of_same_written_key hlen hw hkey
  have hcounter : timeCounter s.epoch s.interval = timeCounter t.epoch t.interval :=
    timeCounter_eq_of_div_eq hi (hquot.trans (timeCounter_toNat (hint ▸ hi) t.epoch).symm)
  refine ⟨_, _, exec_of_pending hps, exec_of_pending hpt, ?_⟩
  rw [effectOf, effectOf, totpEffect_eq, totpEffect_eq, hotpEffect_of_written (s := tstepEffect s) d hks,
    hotpEffect_of_written (s := tstepEffect t) d hkt, tstepEffect, tstepEffect, hcounter]
  exact ⟨rfl, rfl⟩

/-! ### The commands against their stages (R218) -/

/-- The state the four single-unit commands leave, one after another (R212, R218). -/
def State.afterStages (s : State) (d : Nat) : State :=
  (((s.afterCommand .encCtr).afterCommand .hmac).afterCommand .trunc).afterCommand (.modred d)

/-- After the encoder's write the message is the encoded counter, with no free byte drawn (R131, R154). -/
theorem readMsg_of_encoded {s : State} {m : Memory} {c : BitVec 64} (hmsg : s.msg = m.setBytes 0 (encodeCounter c))
    (hlen : s.msglen = 8) (n : Nat) : s.readMsg n = (encodeCounter c, n) := by
  rw [State.readMsg, hmsg, hlen]
  exact Memory.readBytes_setBytes_self m 0 n (encodeCounter c)

/-- HMAC after the encoder leaves the digest of the counter, whichever bytes the key was read as (R154, R212). -/
theorem State.afterCommand_hmac_of_encoded {s : State} {m : Memory} {c : BitVec 64}
    (hmsg : s.msg = m.setBytes 0 (encodeCounter c)) (hlen : s.msglen = 8) : s.afterCommand .hmac = { s with
      cmdLast := encode .hmac
      pending := none
      done := true
      err := false
      errcode := 0
      digest := hmacSha1 s.readKey.1 (encodeCounter c)
      draws := s.readKey.2 } := by
  rw [State.afterCommand, effectOf, hmacEffect,
    readMsg_of_encoded (s := (s.present (encode .hmac)).setPending .hmac) hmsg hlen]
  rfl

/-- The four stages and HOTP leave the same but for CMD_LAST: the hasher finds the encoded counter in MSG (R218). -/
theorem State.afterStages_eq (s : State) (d : Nat) :
    s.afterStages d = { s.afterCommand (.hotp d) with cmdLast := encode (.modred d) } := by
  rw [State.afterStages, State.afterCommand_hmac_of_encoded (m := s.msg) (c := s.ctr) rfl rfl]
  rfl

/-- TOTP leaves what TSTEP and then HOTP leave, but for CMD_LAST (R215, R218). -/
theorem State.afterCommand_totp_eq (s : State) (d : Nat) : s.afterCommand (.totp d) =
    { (s.afterCommand .tstep).afterCommand (.hotp d) with cmdLast := encode (.totp d) } := by
  rw [State.afterCommand, effectOf, totpEffect_eq]
  rfl

/-! ### Their runs -/

@[simp] theorem State.afterCommand_config (s : State) (i : Instr) : (s.afterCommand i).config = s.config :=
  effectOf_config i _
@[simp] theorem State.afterCommand_rst (s : State) (i : Instr) : (s.afterCommand i).rst = s.rst := effectOf_rst i _

/-- What a command leaves does not depend on the events that follow it. -/
theorem State.afterCommand_script (s : State) (i : Instr) (es : List PortEvent) :
    ({ s with script := es } : State).afterCommand i = { s.afterCommand i with script := es } := by
  cases i <;> rfl

/-- The two events of a command that an idle block accepts, before any others (R101, R263, R264). -/
theorem run_command {s : State} {c : Config} {i : Instr} (n : Nat) (es : List PortEvent) (hc : s.config = c)
    (hr : s.rst = false) (hp : s.pending = none) (hd : WellFormed i) (hcheck : acceptanceCheck i s = none) :
    run (n + 2) { s with script := commandEvents c i ++ es } = run n { s.afterCommand i with script := es } := by
  subst hc
  rw [← State.afterCommand_script]
  exact run_commandEvents (s := { s with script := commandEvents s.config i ++ es }) n rfl hr hp
    (decodeOfEncodeIsTheCommand i hd) hcheck

/-- The eight events of the four single-unit commands, on an idle block whose KEYLEN HMAC accepts: MSGLEN is 8 by then,
and MSG has at least 8 bytes (R7, R131, R154). -/
theorem run_stageEvents {s : State} {d : Nat} (hlegal : s.config.Legal) (hr : s.rst = false) (hp : s.pending = none)
    (hk : s.keylen.toNat ≤ s.config.keyMax) (hd : d < 16) :
    run 8 { s with script := stageEvents s.config d } = .next { s.afterStages d with script := [] } := by
  obtain ⟨-, ⟨-, hmsg, -⟩, -⟩ := hlegal
  have hhmac : acceptanceCheck .hmac (s.afterCommand .encCtr) = none :=
    acceptanceCheck_eq_none nofun nofun (fun _ => hk) fun _ => hmsg
  rw [← List.append_nil (stageEvents s.config d), stageEvents, List.append_assoc, List.append_assoc, List.append_assoc,
    run_command (i := .encCtr) 6 _ rfl hr hp (by decide) rfl,
    run_command (i := .hmac) 4 _ (by simp) (by simpa) rfl (by decide) hhmac,
    run_command (i := .trunc) 2 _ (by simp) (by simpa) rfl (by decide) rfl,
    run_command (i := .modred d) 0 _ (by simp) (by simpa) rfl hd rfl]
  rfl

/-- Settles O23: both runs complete, and leave the same but for CMD_LAST. In the model this holds of unwritten key bytes
too, for both runs draw the same free bytes (log 1). -/
theorem hotpIsItsFourStages : Obligations.HotpIsItsFourStages := by
  intro s d hlegal hr hp hk hd _
  have hlt : d < 16 := by omega
  have hcheck : acceptanceCheck (.hotp d) s = none := acceptanceCheck_eq_none (fun _ => hd) nofun (fun _ => hk) nofun
  have hhotp := run_command (i := .hotp d) 0 [] rfl hr hp hlt hcheck
  have hstages := run_stageEvents hlegal hr hp hk hlt
  rw [List.append_nil] at hhotp
  rw [State.afterStages_eq] at hstages
  exact ⟨_, _, hhotp, hstages, rfl, rfl, by constructor <;> rfl⟩

/-- Settles O24: TSTEP's run ends in an idle block that still accepts the stages, which leave what HOTP does there. In
the model this holds of unwritten key bytes too (log 1). -/
theorem totpIsItsFiveStages : Obligations.TotpIsItsFiveStages := by
  intro s d hlegal hr hp hk hd hi _
  have hlt : d < 16 := by omega
  have hcheck : acceptanceCheck (.totp d) s = none :=
    acceptanceCheck_eq_none (fun _ => hd) (fun _ => hi) (fun _ => hk) nofun
  have htstep : acceptanceCheck .tstep s = none := acceptanceCheck_eq_none nofun (fun _ => hi) nofun nofun
  have htotp := run_command (i := .totp d) 0 [] rfl hr hp hlt hcheck
  have hstages := (run_command (i := .tstep) 8 (stageEvents s.config d) rfl hr hp (by decide) htstep).trans
    (run_stageEvents (s := s.afterCommand .tstep) hlegal hr rfl hk hlt)
  rw [List.append_nil, State.afterCommand_totp_eq] at htotp
  rw [State.afterStages_eq] at hstages
  exact ⟨_, _, htotp, hstages, rfl, rfl, by constructor <;> rfl⟩

end Sys2Proof.Machine
end

section
/-! PROOFS. The exceptions of the block: R232's one check order at acceptance (R230, R231, R263), the completion that
raises no error (R235, R264), and the BUSY lock (R234, R266). -/

namespace Sys2Proof.Machine

/-! ### The length checks (R154, R211, R214, R231) -/

/-- A key longer than KEY_MAX is the first failing check of a command that reads KEY, once the checks before it pass
(R232). -/
theorem acceptanceCheck_eq_keylen {i : Instr} {s : State} (hk : s.config.keyMax < s.keylen.toNat)
    (hreads : readsKey i = true) (hd : validatesDigits i = true → i.digits = 6 ∨ i.digits = 7 ∨ i.digits = 8)
    (hi : dividesByInterval i = true → s.interval ≠ 0) : acceptanceCheck i s = some .keylen := by
  rw [acceptanceCheck, if_neg fun ⟨hv, hbad⟩ => hbad (hd hv), if_neg fun ⟨hdiv, hzero⟩ => hi hdiv hzero,
    if_pos ⟨hreads, hk⟩]

/-- A message longer than MSG_MAX is the last check of R232's order, and HMAC's alone. -/
theorem acceptanceCheck_hmac_eq_msglen {s : State} (hk : s.keylen.toNat ≤ s.config.keyMax)
    (hm : s.config.msgMax < s.msglen.toNat) : acceptanceCheck .hmac s = some .msglen := by
  rw [acceptanceCheck, if_neg (by simp [validatesDigits]), if_neg (by simp [dividesByInterval]),
    if_neg fun ⟨_, hlong⟩ => hk.not_gt hlong, if_pos ⟨rfl, hm⟩]

/-- Settles O9: the check decides between refusal and acceptance, and its branches give the two length errors. -/
theorem acceptanceFollowsTheCheckOrder : Obligations.AcceptanceFollowsTheCheckOrder := by
  refine ⟨fun i s hp => ?_, fun s hp hk => ?_, fun s hp hk hm => ?_⟩
  · rcases hcheck : acceptanceCheck i s with _ | k
    · exact (exec_of_idle i hp).trans (congrArg _ (accept_of_check hcheck))
    · exact exec_of_failed_check hp hcheck
  · have hhmac : acceptanceCheck .hmac s = some .keylen := acceptanceCheck_eq_keylen hk rfl nofun nofun
    refine ⟨exec_of_failed_check hp hhmac, fun d h6 h8 => ?_⟩
    have hd : d = 6 ∨ d = 7 ∨ d = 8 := by omega
    have hhotp : acceptanceCheck (.hotp d) s = some .keylen := acceptanceCheck_eq_keylen hk rfl (fun _ => hd) nofun
    refine ⟨exec_of_failed_check hp hhotp, fun hi => ?_⟩
    have htotp : acceptanceCheck (.totp d) s = some .keylen :=
      acceptanceCheck_eq_keylen hk rfl (fun _ => hd) fun _ => hi
    exact exec_of_failed_check hp htotp
  · exact exec_of_failed_check hp (acceptanceCheck_hmac_eq_msglen hk hm)

/-! ### Completion without error (R235, R264) -/

/-- MSG bytes from 8 on lie behind the encoded counter, the only message a command writes (R46, R131). -/
theorem effectOf_msg_get?_of_le {a : Nat} (h : 8 ≤ a) (i : Instr) (s : State) :
    (effectOf i s).msg.get? a = s.msg.get? a := by
  rcases effectOf_msg i s with heq | ⟨c, heq⟩
  · rw [heq]
  · rw [heq]
    exact Memory.get?_setBytes_of_outside _ _ _ _ (.inr (by simpa using h))

/-- Settles O22: a completion is the command's effect and `finish`, and neither writes any of these fields. -/
theorem acceptedCommandsCompleteWithoutError : Obligations.AcceptedCommandsCompleteWithoutError := fun i s hp =>
  ⟨_, exec_of_pending hp, rfl, rfl, effectOf_err i s, effectOf_errcode i s, effectOf_ovr i s, effectOf_cmdLast i s,
    effectOf_ie i s, effectOf_keylen i s, effectOf_epoch i s, effectOf_interval i s, effectOf_key i s,
    effectOf_config i s, fun _ ha => effectOf_msg_get?_of_le ha i s⟩

/-! ### The BUSY lock (R234, R266) -/

/-- CMD, the operand registers and TRUNC stand at aligned offsets, and are locked (R72, R266). -/
theorem regAt_operand_locked :
    ∀ off ∈ [0x010, 0x014, 0x018, 0x020, 0x024, 0x028, 0x02C, 0x030, 0x034, 0x038],
      off < 4096 ∧ off % 4 = 0 ∧ (regAt off).locked = true := by
  decide

/-- The two buffer windows stand side by side, and every word of them is locked (R72, R266). -/
theorem regAt_buffer_locked {off : Nat} (h : 0x100 ≤ off) (h' : off < 0x240) : (regAt off).locked = true := by
  rw [regAt]
  split_ifs
  · rfl
  · rfl
  · omega

/-- A write of a locked word while a command is in flight is a step that sets OVR and nothing else (R234, R266). -/
theorem step_write_of_locked {s : State} {off : Nat} {w : Word} {es : List PortEvent}
    (hs : s.script = .write (s.config.base + off) .w32 w :: es) (hr : s.rst = false) (hp : s.pending ≠ none)
    (ho : off < 4096) (h4 : off % 4 = 0) (hlocked : (regAt off).locked = true) :
    step s = .next { s with script := es, ovr := true } := by
  rw [step_write hs hr ho h4]
  exact hostWrite_of_locked hlocked hp

/-- Settles O48: each of these offsets reaches a locked word, a register's or a buffer's. -/
theorem busyLockDropsWrites : Obligations.BusyLockDropsWrites := by
  rintro s es off w hs hr hp (hmem | ⟨hlo, hhi, h4⟩)
  · obtain ⟨ho, h4, hlocked⟩ := regAt_operand_locked off hmem
    exact step_write_of_locked hs hr hp ho h4 hlocked
  · exact step_write_of_locked hs hr hp (by omega) h4 (regAt_buffer_locked hlo hhi)

end Sys2Proof.Machine
end

section
/-! PROOFS. The two steps of a command's life at the port (R263, R264): the CMD write, the completion's turn, the STATUS
polls between them (R265), and the end of a run (R271). -/

namespace Sys2Proof.Machine

/-! ### The CMD write (R263) -/

/-- A CMD write of a command that passes its checks makes it pending, on an idle block (R263). -/
theorem step_accept {s : State} {i : Instr} {es : List PortEvent} (hs : s.script = cmdWrite s.config (encode i) :: es)
    (hr : s.rst = false) (hp : s.pending = none) (hd : decode (encode i) = .command i)
    (hcheck : acceptanceCheck i s = none) :
    step s = .next (({ s with script := es }.present (encode i)).setPending i) := by
  rw [cmdWriteRunsTheDecodedCommand s _ i es hs hr hp hd]
  exact (exec_of_idle (s := { s with script := es }) i hp).trans (congrArg _ (accept_of_check hcheck))

/-- A CMD write of a command that fails a check reports the first one, on an idle block (R232, R263). -/
theorem step_refuse {s : State} {i : Instr} {k : ErrorCode} {es : List PortEvent}
    (hs : s.script = cmdWrite s.config (encode i) :: es) (hr : s.rst = false) (hp : s.pending = none)
    (hd : decode (encode i) = .command i) (hcheck : acceptanceCheck i s = some k) : step s = .next { s with
      script := es, cmdLast := encode i, done := false, err := true, errcode := k.code } := by
  rw [cmdWriteRunsTheDecodedCommand s _ i es hs hr hp hd]
  exact exec_of_failed_check (s := { s with script := es }) hp hcheck

theorem State.busy_eq_true_iff {s : State} : s.busy = true ↔ s.pending ≠ none := Option.isSome_iff_ne_none

/-- Settles O8: a busy block drops the write, and an idle one rejects a word that does not decode, refuses a command
that fails a check, or accepts it. -/
theorem cmdWriteIsTheAcceptanceStep : Obligations.CmdWriteIsTheAcceptanceStep := by
  refine ⟨fun s w es hs hr => ?_, rfl, rfl, rfl, rfl, rfl⟩
  by_cases hbusy : s.busy = true
  · rw [if_pos hbusy]
    exact step_write_of_locked hs hr (State.busy_eq_true_iff.mp hbusy) (by decide) (by decide) rfl
  rw [if_neg hbusy]
  have hp : s.pending = none := not_not.mp (State.busy_eq_true_iff.not.mp hbusy)
  rcases hd : decode w with i | why
  · obtain ⟨-, rfl⟩ := commandWordIsUnique w i hd
    dsimp only
    rcases hcheck : acceptanceCheck i s with _ | k
    · exact step_accept hs hr hp hd hcheck
    · exact step_refuse hs hr hp hd hcheck
  · exact illegalWordRaisesIllegal s w es hs hr hp ((illegalWordsAreExactlyThese w).mp ⟨why, hd⟩)

/-! ### The completion's turn (R264) -/

theorem completionStep_eq_exec {i : Instr} {s : State} (h : s.pending = some i) : completionStep s = exec i s := by
  rw [completionStep, h]

/-- Settles O6: both turns are the completion step, the second by the end of the script (log 3). -/
theorem completionTurnRunsThePendingCommand : Obligations.CompletionTurnRunsThePendingCommand := fun _ _ hp =>
  ⟨fun _ hs => (step_cons hs).trans (completionStep_eq_exec hp),
    fun hs => (step_nil hs).trans (completionStep_eq_exec hp)⟩

/-! ### STATUS polls before the completion (R265) -/

/-- STATUS polls change nothing but the answer on the port (R75). -/
theorem run_statusPolls {s : State} {n : Nat} {es : List PortEvent} (k : Nat)
    (hs : s.script = List.replicate n (memRead s.config 0x00C) ++ es) (hr : s.rst = false) :
    ∃ answer, run (n + k) s = run k { s with script := es, rdata := answer } := by
  induction n generalizing s with
  | zero =>
    subst hs
    exact ⟨s.rdata, by rw [Nat.zero_add]⟩
  | succ n ih =>
    have hpoll := step_read_row (off := 0x00C) (r := .status) (by decide) hs hr
    rw [Nat.succ_add, run_succ_of_next hpoll]
    exact ih rfl hr

/-- No command reads or writes the events to come or the last answer on the port (logs 3, 4). -/
theorem effectOf_withPort (i : Instr) (s : State) (es : List PortEvent) (answer : Option Word) :
    effectOf i { s with script := es, rdata := answer } = { effectOf i s with script := es, rdata := answer } := by
  cases i <;> rfl

/-- A pending command completes after any number of polls, and only the last answer on the port tells of them (R264,
R265). -/
theorem run_statusPolls_tick {s : State} {i : Instr} {n : Nat}
    (hs : s.script = List.replicate n (memRead s.config 0x00C) ++ [.tick]) (hr : s.rst = false)
    (hp : s.pending = some i) :
    ∃ answer, run (n + 1) s = .next { (effectOf i s).finish with script := [], rdata := answer } := by
  obtain ⟨answer, hpolls⟩ := run_statusPolls 1 hs hr
  have htick := step_tick (s := { s with script := [.tick], rdata := answer }) rfl hp
  rw [effectOf_withPort i s [] answer] at htick
  exact ⟨answer, hpolls.trans (run_succ_of_next htick)⟩

/-- A command that an idle block accepts leaves the same however often it is polled, but for the last answer on the port
(R263, R264, R265). -/
theorem run_polledCommand {s : State} {i : Instr} {n : Nat}
    (hs : s.script = cmdWrite s.config (encode i) :: (List.replicate n (memRead s.config 0x00C) ++ [.tick]))
    (hr : s.rst = false) (hp : s.pending = none) (hd : WellFormed i) (hcheck : acceptanceCheck i s = none) :
    ∃ answer, run (n + 2) s = .next { s.afterCommand i with script := [], rdata := answer } := by
  have haccept := step_accept hs hr hp (decodeOfEncodeIsTheCommand i hd) hcheck
  obtain ⟨answer, hpolls⟩ := run_statusPolls_tick (n := n) (s := (State.present { s with
    script := List.replicate n (memRead s.config 0x00C) ++ [.tick] } (encode i)).setPending i) rfl hr rfl
  refine ⟨answer, (run_succ_of_next haccept).trans (hpolls.trans ?_)⟩
  rw [← State.afterCommand, State.afterCommand_script]

/-- Settles O27: both runs end in what the command leaves; only the polled one has a new last answer. That they agree on
unwritten bytes is log 1's choice: the polls draw no free byte. -/
theorem pollingDoesNotChangeTheResult : Obligations.PollingDoesNotChangeTheResult := by
  intro s i n hr hp hd hcheck
  have hrun := run_command 0 [] rfl hr hp hd hcheck
  obtain ⟨answer, hpolled⟩ := run_polledCommand (n := n) (s := { s with
    script := cmdWrite s.config (encode i) :: (List.replicate n (memRead s.config 0x00C) ++ [.tick]) })
    rfl hr hp hd hcheck
  rw [List.append_nil] at hrun
  rw [State.afterCommand_script] at hpolled
  exact ⟨_, _, hpolled, hrun, rfl⟩

/-! ### The end of a run (R271) -/

theorem completionStep_pending {s t : State} (h : completionStep s = .next t) : t.pending = none := by
  rcases completionStep_cases h with ⟨hidle, rfl⟩ | ⟨_, -, rfl⟩
  · exact hidle
  · rfl

/-- The step after the last event ends the run: the completion gets its turn (R265, log 3). -/
theorem final_of_step_nil {s t : State} (hs : s.script = []) (h : step s = .next t) : Final t :=
  ⟨by rw [step_script h, restOf, hs, List.tail_nil], completionStep_pending ((step_nil hs).symm.trans h)⟩

/-- A run with a step for each event and one more ends with nothing left, by induction on the events: each step takes
one. -/
theorem final_of_run {s t : State} {es : List PortEvent} (hs : s.script = es)
    (hrun : run (es.length + 1) s = .next t) : Final t := by
  induction es generalizing s with
  | nil =>
    obtain ⟨u, hstep, hrun⟩ := run_succ_next hrun
    cases hrun
    exact final_of_step_nil hs hstep
  | cons e es ih =>
    obtain ⟨u, hstep, hrun⟩ := run_succ_next hrun
    exact ih (by rw [step_script hstep, restOf, hs, List.tail_cons]) hrun

/-- Settles O57: the events are those of the script. -/
theorem runsEndWithNothingPending : Obligations.RunsEndWithNothingPending := fun _ _ => final_of_run rfl

end Sys2Proof.Machine
end
